-- ==== Sys2Proof/Word.lean ====
section
/-! DEFINITION. The two widths of the hardware (00_scope.md table P): 8-bit bytes and registers, 16-bit pairs and addresses. -/

namespace Sys2Proof

/-- An 8-bit register, a flags byte or one byte of memory (`REG_WIDTH`, R5). -/
abbrev Byte := BitVec 8

/-- A register pair, an address, PC or SP (`PAIR_WIDTH`, `ADDR_WIDTH`, R5). -/
abbrev Word := BitVec 16

end Sys2Proof
end

