-- ==== Sys2Proof/Machine/Bits.lean ====
section
/-! DEFINITION. Bit fields, byte order and extension: the notation of 00_scope.md R6 and the byte order of 20_memory.md R66, R67. -/

namespace Sys2Proof.Machine

/-- `w[15:8]` (R20). -/
def hiByte (w : Word) : Byte := w.extractLsb' 8 8

/-- `w[7:0]` (R20). -/
def loByte (w : Word) : Byte := w.extractLsb' 0 8

/-- `zext_16` of a byte (R6). -/
def zext16 (v : Byte) : Word := v.setWidth 16

/-- The pair `(high << 8) | low`, `{hi, lo}` (R6, R20). -/
def mkWord (hi lo : Byte) : Word := (zext16 hi <<< 8) ||| zext16 lo

/-- `sext_16` of a displacement byte (R6, R94). -/
def sext16 (v : Byte) : Word := v.signExtend 16

/-- `v[i]` (R6). -/
def bitAt (v : Byte) (i : Nat) : Bool := v.getLsbD i

/-- The byte `1 << i` (R6). -/
def bitMask (i : Nat) : Byte := 1#8 <<< i

/-- `v | (1 << i)` (R275, R309). -/
def setBit (v : Byte) (i : Nat) : Byte := v ||| bitMask i

/-- `v & ~(1 << i)` (R273, R315). -/
def clearBit (v : Byte) (i : Nat) : Byte := v &&& ~~~(bitMask i)

/-- A byte whose only possible set bit is bit 0. -/
def bitByte (b : Bool) : Byte := if b then 1 else 0

/-- Field `x` of an opcode byte, `op[7:6]` (table FD, R92). -/
def fieldX (op : Byte) : Nat := op.toNat / 64

/-- Field `y` of an opcode byte, `op[5:3]` (table FD, R92). -/
def fieldY (op : Byte) : Nat := op.toNat / 8 % 8

/-- Field `z` of an opcode byte, `op[2:0]` (table FD, R92). -/
def fieldZ (op : Byte) : Nat := op.toNat % 8

/-- Field `p` of an opcode byte, `op[5:4]` (table FD, R92). -/
def fieldP (op : Byte) : Nat := op.toNat / 16 % 4

/-- Field `q` of an opcode byte, `op[3]` (table FD, R92). -/
def fieldQ (op : Byte) : Nat := op.toNat / 8 % 2

/-- The opcode byte with fields `x`, `y`, `z` (table FD, R92). -/
def opByte (x y z : Nat) : Byte := BitVec.ofNat 8 (64 * x + 8 * y + z)

/-- Byte `k` of a little-endian number. -/
def byteOf (w k : Nat) : Byte := BitVec.ofNat 8 (w / 256 ^ k)

end Sys2Proof.Machine
end

