-- ==== Sys2Proof/Syntax.lean ====
section
/-! DEFINITION. The syntax: one constructor of `Instr` per row of spec/opcode_table.json (30_encoding.md R100, R101, R102, R111),
and the operand kinds of R95 to R98. Immediates are the operand bytes as fetched (R93, R94). -/

namespace Sys2Proof

/-- The 8-bit registers an instruction field can name (R95); field value 6 is no register. -/
inductive Reg8 where
  | b | c | d | e | h | l | a
  deriving DecidableEq, Repr

/-- The pairs of the field `r16` (R96). -/
inductive Reg16 where
  | bc | de | hl | sp
  deriving DecidableEq, Repr

/-- The pairs of the field `r16s` that `PUSH rr` and `POP rr` name; AF has rows of its own (R96, R228, R230). -/
inductive StackPair where
  | bc | de | hl
  deriving DecidableEq, Repr

/-- The four conditions (R97). -/
inductive Cond where
  | nz | z | nc | c
  deriving DecidableEq, Repr

/-- The instruction set: one constructor per row of spec/opcode_table.json. -/
inductive Instr where
  /-- `LD r,r'`, R121. -/
  | ldRR (rd : Reg8) (rs : Reg8)
  /-- `LD r,n8`, R122. -/
  | ldRN8 (rd : Reg8) (n : Byte)
  /-- `LD r,(HL)`, R123. -/
  | ldRHl (rd : Reg8)
  /-- `LD (HL),r`, R124. -/
  | ldHlR (rs : Reg8)
  /-- `LD (HL),n8`, R125. -/
  | ldHlN8 (n : Byte)
  /-- `LD A,(BC)`, R126. -/
  | ldABc
  /-- `LD A,(DE)`, R127. -/
  | ldADe
  /-- `LD (BC),A`, R128. -/
  | ldBcA
  /-- `LD (DE),A`, R129. -/
  | ldDeA
  /-- `LD (HL+),A`, R130. -/
  | ldHliA
  /-- `LD (HL-),A`, R131. -/
  | ldHldA
  /-- `LD A,(HL+)`, R132. -/
  | ldAHli
  /-- `LD A,(HL-)`, R133. -/
  | ldAHld
  /-- `LD (a16),A`, R134. -/
  | ldA16A (a : Word)
  /-- `LD A,(a16)`, R135. -/
  | ldAA16 (a : Word)
  /-- `LDH (a8),A`, R136. -/
  | ldhA8A (o : Byte)
  /-- `LDH A,(a8)`, R137. -/
  | ldhAA8 (o : Byte)
  /-- `LD (C),A`, R138. -/
  | ldCA
  /-- `LD A,(C)`, R139. -/
  | ldAC
  /-- `LD rr,n16`, R140. -/
  | ldRrN16 (p : Reg16) (n : Word)
  /-- `LD SP,HL`, R141. -/
  | ldSpHl
  /-- `LD HL,SP+e8`, R142. -/
  | ldHlSpE8 (e : Byte)
  /-- `LD (a16),SP`, R146. -/
  | ldA16Sp (a : Word)
  /-- `INC r`, R162. -/
  | incR (rd : Reg8)
  /-- `INC (HL)`, R163. -/
  | incHl
  /-- `DEC r`, R164. -/
  | decR (rd : Reg8)
  /-- `DEC (HL)`, R165. -/
  | decHl
  /-- `INC rr`, R166. -/
  | incRr (p : Reg16)
  /-- `DEC rr`, R167. -/
  | decRr (p : Reg16)
  /-- `ADD A,r`, R176. -/
  | addAR (rs : Reg8)
  /-- `ADD A,(HL)`, R177. -/
  | addAHl
  /-- `ADD A,n8`, R178. -/
  | addAN8 (n : Byte)
  /-- `ADC A,r`, R179. -/
  | adcAR (rs : Reg8)
  /-- `ADC A,(HL)`, R180. -/
  | adcAHl
  /-- `ADC A,n8`, R181. -/
  | adcAN8 (n : Byte)
  /-- `SUB r`, R182. -/
  | subR (rs : Reg8)
  /-- `SUB (HL)`, R183. -/
  | subHl
  /-- `SUB n8`, R184. -/
  | subN8 (n : Byte)
  /-- `SBC A,r`, R185. -/
  | sbcAR (rs : Reg8)
  /-- `SBC A,(HL)`, R186. -/
  | sbcAHl
  /-- `SBC A,n8`, R187. -/
  | sbcAN8 (n : Byte)
  /-- `AND r`, R195. -/
  | andR (rs : Reg8)
  /-- `AND (HL)`, R196. -/
  | andHl
  /-- `AND n8`, R197. -/
  | andN8 (n : Byte)
  /-- `XOR r`, R198. -/
  | xorR (rs : Reg8)
  /-- `XOR (HL)`, R199. -/
  | xorHl
  /-- `XOR n8`, R200. -/
  | xorN8 (n : Byte)
  /-- `OR r`, R201. -/
  | orR (rs : Reg8)
  /-- `OR (HL)`, R202. -/
  | orHl
  /-- `OR n8`, R203. -/
  | orN8 (n : Byte)
  /-- `CP r`, R204. -/
  | cpR (rs : Reg8)
  /-- `CP (HL)`, R205. -/
  | cpHl
  /-- `CP n8`, R206. -/
  | cpN8 (n : Byte)
  /-- `ADD HL,rr`, R188. -/
  | addHlRr (p : Reg16)
  /-- `ADD SP,e8`, R189. -/
  | addSpE8 (e : Byte)
  /-- `DAA`, R190. -/
  | daa
  /-- `CPL`, R207. -/
  | cpl
  /-- `SCF`, R208. -/
  | scf
  /-- `CCF`, R209. -/
  | ccf
  /-- `JR e8`, R210. -/
  | jrE8 (e : Byte)
  /-- `JR cc,e8`, R211. -/
  | jrCcE8 (cc : Cond) (e : Byte)
  /-- `JP a16`, R212. -/
  | jpA16 (a : Word)
  /-- `JP cc,a16`, R213. -/
  | jpCcA16 (cc : Cond) (a : Word)
  /-- `JP HL`, R214. -/
  | jpHl
  /-- `CALL a16`, R222. -/
  | callA16 (a : Word)
  /-- `CALL cc,a16`, R223. -/
  | callCcA16 (cc : Cond) (a : Word)
  /-- `RET`, R224. -/
  | ret
  /-- `RET cc`, R225. -/
  | retCc (cc : Cond)
  /-- `RETI`, R226. -/
  | reti
  /-- `RST t`, R227. -/
  | rst (t : Nat)
  /-- `PUSH rr`, R228. -/
  | pushRr (p : StackPair)
  /-- `PUSH AF`, R229. -/
  | pushAf
  /-- `POP rr`, R230. -/
  | popRr (p : StackPair)
  /-- `POP AF`, R231. -/
  | popAf
  /-- `NOP`, R240. -/
  | nop
  /-- `DI`, R241. -/
  | di
  /-- `EI`, R242. -/
  | ei
  /-- `HALT`, R243. -/
  | halt
  /-- `STOP`, R244. -/
  | stop
  /-- `PREFIX CB`, R245. -/
  | prefixCb (op2 : Byte)
  /-- `ILLEGAL_D3`, R246. -/
  | illegalD3
  /-- `ILLEGAL_DB`, R246. -/
  | illegalDB
  /-- `ILLEGAL_DD`, R246. -/
  | illegalDD
  /-- `ILLEGAL_E3`, R246. -/
  | illegalE3
  /-- `ILLEGAL_E4`, R246. -/
  | illegalE4
  /-- `ILLEGAL_EB`, R246. -/
  | illegalEB
  /-- `ILLEGAL_EC`, R246. -/
  | illegalEC
  /-- `ILLEGAL_ED`, R246. -/
  | illegalED
  /-- `ILLEGAL_F4`, R246. -/
  | illegalF4
  /-- `ILLEGAL_FC`, R246. -/
  | illegalFC
  /-- `ILLEGAL_FD`, R246. -/
  | illegalFD
  /-- `RLCA`, R250. -/
  | rlca
  /-- `RRCA`, R251. -/
  | rrca
  /-- `RLA`, R252. -/
  | rla
  /-- `RRA`, R253. -/
  | rra
  /-- `RLC r`, R255. -/
  | rlcR (rs : Reg8)
  /-- `RLC (HL)`, R256. -/
  | rlcHl
  /-- `RRC r`, R257. -/
  | rrcR (rs : Reg8)
  /-- `RRC (HL)`, R258. -/
  | rrcHl
  /-- `RL r`, R259. -/
  | rlR (rs : Reg8)
  /-- `RL (HL)`, R260. -/
  | rlHl
  /-- `RR r`, R261. -/
  | rrR (rs : Reg8)
  /-- `RR (HL)`, R262. -/
  | rrHl
  /-- `SLA r`, R263. -/
  | slaR (rs : Reg8)
  /-- `SLA (HL)`, R264. -/
  | slaHl
  /-- `SRA r`, R265. -/
  | sraR (rs : Reg8)
  /-- `SRA (HL)`, R266. -/
  | sraHl
  /-- `SWAP r`, R267. -/
  | swapR (rs : Reg8)
  /-- `SWAP (HL)`, R268. -/
  | swapHl
  /-- `SRL r`, R269. -/
  | srlR (rs : Reg8)
  /-- `SRL (HL)`, R270. -/
  | srlHl
  /-- `BIT b,r`, R271. -/
  | bitBR (b : Nat) (rs : Reg8)
  /-- `BIT b,(HL)`, R272. -/
  | bitBHl (b : Nat)
  /-- `RES b,r`, R273. -/
  | resBR (b : Nat) (rs : Reg8)
  /-- `RES b,(HL)`, R274. -/
  | resBHl (b : Nat)
  /-- `SET b,r`, R275. -/
  | setBR (b : Nat) (rs : Reg8)
  /-- `SET b,(HL)`, R276. -/
  | setBHl (b : Nat)
  deriving DecidableEq, Repr

end Sys2Proof
end

