-- ==== Sys2Proof/WellFormed.lean ====
section
/-! DEFINITION. Well-formedness of an instruction as syntax: the two operand kinds held as natural numbers are within
their 3-bit fields (30_encoding.md R98). Every other operand is well formed by its type. -/

namespace Sys2Proof

/-- A bit index is 0..7 (R98). -/
def bitIndexOk (b : Nat) : Bool := b < 8

/-- An RST target index is 0..7 (R98, R227). -/
def rstIndexOk (t : Nat) : Bool := t < 8

/-- The check of every constructor. -/
def Instr.wellFormed : Instr → Bool
  | .ldRR _ _ => true
  | .ldRN8 _ _ => true
  | .ldRHl _ => true
  | .ldHlR _ => true
  | .ldHlN8 _ => true
  | .ldABc => true
  | .ldADe => true
  | .ldBcA => true
  | .ldDeA => true
  | .ldHliA => true
  | .ldHldA => true
  | .ldAHli => true
  | .ldAHld => true
  | .ldA16A _ => true
  | .ldAA16 _ => true
  | .ldhA8A _ => true
  | .ldhAA8 _ => true
  | .ldCA => true
  | .ldAC => true
  | .ldRrN16 _ _ => true
  | .ldSpHl => true
  | .ldHlSpE8 _ => true
  | .ldA16Sp _ => true
  | .incR _ => true
  | .incHl => true
  | .decR _ => true
  | .decHl => true
  | .incRr _ => true
  | .decRr _ => true
  | .addAR _ => true
  | .addAHl => true
  | .addAN8 _ => true
  | .adcAR _ => true
  | .adcAHl => true
  | .adcAN8 _ => true
  | .subR _ => true
  | .subHl => true
  | .subN8 _ => true
  | .sbcAR _ => true
  | .sbcAHl => true
  | .sbcAN8 _ => true
  | .andR _ => true
  | .andHl => true
  | .andN8 _ => true
  | .xorR _ => true
  | .xorHl => true
  | .xorN8 _ => true
  | .orR _ => true
  | .orHl => true
  | .orN8 _ => true
  | .cpR _ => true
  | .cpHl => true
  | .cpN8 _ => true
  | .addHlRr _ => true
  | .addSpE8 _ => true
  | .daa => true
  | .cpl => true
  | .scf => true
  | .ccf => true
  | .jrE8 _ => true
  | .jrCcE8 _ _ => true
  | .jpA16 _ => true
  | .jpCcA16 _ _ => true
  | .jpHl => true
  | .callA16 _ => true
  | .callCcA16 _ _ => true
  | .ret => true
  | .retCc _ => true
  | .reti => true
  | .rst t => rstIndexOk t
  | .pushRr _ => true
  | .pushAf => true
  | .popRr _ => true
  | .popAf => true
  | .nop => true
  | .di => true
  | .ei => true
  | .halt => true
  | .stop => true
  | .prefixCb _ => true
  | .illegalD3 => true
  | .illegalDB => true
  | .illegalDD => true
  | .illegalE3 => true
  | .illegalE4 => true
  | .illegalEB => true
  | .illegalEC => true
  | .illegalED => true
  | .illegalF4 => true
  | .illegalFC => true
  | .illegalFD => true
  | .rlca => true
  | .rrca => true
  | .rla => true
  | .rra => true
  | .rlcR _ => true
  | .rlcHl => true
  | .rrcR _ => true
  | .rrcHl => true
  | .rlR _ => true
  | .rlHl => true
  | .rrR _ => true
  | .rrHl => true
  | .slaR _ => true
  | .slaHl => true
  | .sraR _ => true
  | .sraHl => true
  | .swapR _ => true
  | .swapHl => true
  | .srlR _ => true
  | .srlHl => true
  | .bitBR b _ => bitIndexOk b
  | .bitBHl b => bitIndexOk b
  | .resBR b _ => bitIndexOk b
  | .resBHl b => bitIndexOk b
  | .setBR b _ => bitIndexOk b
  | .setBHl b => bitIndexOk b

end Sys2Proof
end

