-- ==== Sys2Proof/Decode.lean ====
section
/-! DEFINITION. The decoder (30_encoding.md R90 to R105) and, after it, the encoder written from the same encodings.
Every first byte and every second byte selects exactly one constructor (R105); the only rejections of `decode` are of a
list of bytes that ends before the instruction does. -/

namespace Sys2Proof

open Sys2Proof.Machine

/-- The 8-bit register of field value `i`; value 6 is the byte at HL (R95). -/
def regOf (i : Nat) : Option Reg8 :=
  match i with
  | 0 => some .b
  | 1 => some .c
  | 2 => some .d
  | 3 => some .e
  | 4 => some .h
  | 5 => some .l
  | 6 => none
  | _ => some .a

/-- The pair `r16` of field value `i` (R96). -/
def pairOf (i : Nat) : Reg16 :=
  match i with
  | 0 => .bc
  | 1 => .de
  | 2 => .hl
  | _ => .sp

/-- The pair `r16s` of field value `i`; value 3 is AF (R96). -/
def stackPairOf (i : Nat) : Option StackPair :=
  match i with
  | 0 => some .bc
  | 1 => some .de
  | 2 => some .hl
  | _ => none

/-- The condition of field value `i` (R97). -/
def condOf (i : Nat) : Cond :=
  match i with
  | 0 => .nz
  | 1 => .z
  | 2 => .nc
  | _ => .c

/-- The rotate or shift `ooo` of the 0xCB page on a register (R98). -/
def rotateR (o : Nat) (r : Reg8) : Instr :=
  match o with
  | 0 => .rlcR r
  | 1 => .rrcR r
  | 2 => .rlR r
  | 3 => .rrR r
  | 4 => .slaR r
  | 5 => .sraR r
  | 6 => .swapR r
  | _ => .srlR r

/-- The rotate or shift `ooo` of the 0xCB page on the byte at HL (R98). -/
def rotateHl (o : Nat) : Instr :=
  match o with
  | 0 => .rlcHl
  | 1 => .rrcHl
  | 2 => .rlHl
  | 3 => .rrHl
  | 4 => .slaHl
  | 5 => .sraHl
  | 6 => .swapHl
  | _ => .srlHl

/-- The 0xCB page: every second byte is an instruction (R101, table OC). -/
def decodeCb (op2 : Byte) : Instr :=
  match fieldX op2, regOf (fieldZ op2) with
  | 0, some r => rotateR (fieldY op2) r
  | 0, none => rotateHl (fieldY op2)
  | 1, some r => .bitBR (fieldY op2) r
  | 1, none => .bitBHl (fieldY op2)
  | 2, some r => .resBR (fieldY op2) r
  | 2, none => .resBHl (fieldY op2)
  | _, some r => .setBR (fieldY op2) r
  | _, none => .setBHl (fieldY op2)

/-- Accumulator operation `ooo` with a register operand (R98). -/
def aluR (o : Nat) (r : Reg8) : Instr :=
  match o with
  | 0 => .addAR r
  | 1 => .adcAR r
  | 2 => .subR r
  | 3 => .sbcAR r
  | 4 => .andR r
  | 5 => .xorR r
  | 6 => .orR r
  | _ => .cpR r

/-- Accumulator operation `ooo` with the byte at HL (R98). -/
def aluHl (o : Nat) : Instr :=
  match o with
  | 0 => .addAHl
  | 1 => .adcAHl
  | 2 => .subHl
  | 3 => .sbcAHl
  | 4 => .andHl
  | 5 => .xorHl
  | 6 => .orHl
  | _ => .cpHl

/-- Accumulator operation `ooo` with an immediate (R98). -/
def aluN8 (o : Nat) (n : Byte) : Instr :=
  match o with
  | 0 => .addAN8 n
  | 1 => .adcAN8 n
  | 2 => .subN8 n
  | 3 => .sbcAN8 n
  | 4 => .andN8 n
  | 5 => .xorN8 n
  | 6 => .orN8 n
  | _ => .cpN8 n

/-- Block `x = 0` of the base page (R100, table OB rows 0x to 3x). -/
def decodeBlock0 (op b1 b2 : Byte) : Instr :=
  match fieldZ op with
  | 0 =>
    match fieldY op with
    | 0 => .nop
    | 1 => .ldA16Sp (mkWord b2 b1)
    | 2 => .stop
    | 3 => .jrE8 b1
    | y => .jrCcE8 (condOf (y - 4)) b1
  | 1 =>
    match fieldQ op with
    | 0 => .ldRrN16 (pairOf (fieldP op)) (mkWord b2 b1)
    | _ => .addHlRr (pairOf (fieldP op))
  | 2 =>
    match fieldY op with
    | 0 => .ldBcA
    | 1 => .ldABc
    | 2 => .ldDeA
    | 3 => .ldADe
    | 4 => .ldHliA
    | 5 => .ldAHli
    | 6 => .ldHldA
    | _ => .ldAHld
  | 3 =>
    match fieldQ op with
    | 0 => .incRr (pairOf (fieldP op))
    | _ => .decRr (pairOf (fieldP op))
  | 4 =>
    match regOf (fieldY op) with
    | some r => .incR r
    | none => .incHl
  | 5 =>
    match regOf (fieldY op) with
    | some r => .decR r
    | none => .decHl
  | 6 =>
    match regOf (fieldY op) with
    | some r => .ldRN8 r b1
    | none => .ldHlN8 b1
  | _ =>
    match fieldY op with
    | 0 => .rlca
    | 1 => .rrca
    | 2 => .rla
    | 3 => .rra
    | 4 => .daa
    | 5 => .cpl
    | 6 => .scf
    | _ => .ccf

/-- Block `x = 1`: register loads and HALT (R95, R100). -/
def decodeBlock1 (op : Byte) : Instr :=
  match regOf (fieldY op), regOf (fieldZ op) with
  | some rd, some rs => .ldRR rd rs
  | some rd, none => .ldRHl rd
  | none, some rs => .ldHlR rs
  | none, none => .halt

/-- Block `x = 2`: accumulator arithmetic and logic (R98, R100). -/
def decodeBlock2 (op : Byte) : Instr :=
  match regOf (fieldZ op) with
  | some r => aluR (fieldY op) r
  | none => aluHl (fieldY op)

/-- Block `x = 3` of the base page (R100, R102, table OB rows Cx to Fx). -/
def decodeBlock3 (op b1 b2 : Byte) : Instr :=
  match fieldZ op with
  | 0 =>
    match fieldY op with
    | 4 => .ldhA8A b1
    | 5 => .addSpE8 b1
    | 6 => .ldhAA8 b1
    | 7 => .ldHlSpE8 b1
    | y => .retCc (condOf y)
  | 1 =>
    match fieldQ op with
    | 0 =>
      match stackPairOf (fieldP op) with
      | some p => .popRr p
      | none => .popAf
    | _ =>
      match fieldP op with
      | 0 => .ret
      | 1 => .reti
      | 2 => .jpHl
      | _ => .ldSpHl
  | 2 =>
    match fieldY op with
    | 4 => .ldCA
    | 5 => .ldA16A (mkWord b2 b1)
    | 6 => .ldAC
    | 7 => .ldAA16 (mkWord b2 b1)
    | y => .jpCcA16 (condOf y) (mkWord b2 b1)
  | 3 =>
    match fieldY op with
    | 0 => .jpA16 (mkWord b2 b1)
    | 1 => decodeCb b1
    | 2 => .illegalD3
    | 3 => .illegalDB
    | 4 => .illegalE3
    | 5 => .illegalEB
    | 6 => .di
    | _ => .ei
  | 4 =>
    match fieldY op with
    | 4 => .illegalE4
    | 5 => .illegalEC
    | 6 => .illegalF4
    | 7 => .illegalFC
    | y => .callCcA16 (condOf y) (mkWord b2 b1)
  | 5 =>
    match fieldQ op with
    | 0 =>
      match stackPairOf (fieldP op) with
      | some p => .pushRr p
      | none => .pushAf
    | _ =>
      match fieldP op with
      | 0 => .callA16 (mkWord b2 b1)
      | 1 => .illegalDD
      | 2 => .illegalED
      | _ => .illegalFD
  | 6 => aluN8 (fieldY op) b1
  | _ => .rst (fieldY op)

/-- The instruction whose first byte is `op` and whose following bytes are `b1`, `b2`, as far as it has them (R99).
A first byte 0xCB gives the second-page instruction that `b1` selects (R104, R245), so no bytes decode to
`Instr.prefixCb` (log 5). That the opcode map is built in, and is no field of `Config`, is the model's choice (DESIGN CHOICE,
log 20). -/
def decodeBytes (op b1 b2 : Byte) : Instr :=
  match fieldX op with
  | 0 => decodeBlock0 op b1 b2
  | 1 => decodeBlock1 op
  | 2 => decodeBlock2 op
  | _ => decodeBlock3 op b1 b2

/-- The instruction a term stands for once the prefix's second byte is looked up; all but `prefixCb` stand for themselves (R245). -/
def Instr.canonical : Instr → Instr
  | .prefixCb op2 => decodeCb op2
  | i => i

/-- Little-endian operand bytes after an opcode byte (R91, R93). -/
def withWord (op : Byte) (w : Word) : List Byte := [op, loByte w, hiByte w]

/-- Field value of a register (R95). -/
def Reg8.code : Reg8 → Nat
  | .b => 0
  | .c => 1
  | .d => 2
  | .e => 3
  | .h => 4
  | .l => 5
  | .a => 7

/-- Field value of a pair (R96). -/
def Reg16.code : Reg16 → Nat
  | .bc => 0
  | .de => 1
  | .hl => 2
  | .sp => 3

/-- Field value of a stack pair (R96). -/
def StackPair.code : StackPair → Nat
  | .bc => 0
  | .de => 1
  | .hl => 2

/-- Field value of a condition (R97). -/
def Cond.code : Cond → Nat
  | .nz => 0
  | .z => 1
  | .nc => 2
  | .c => 3

/-- The two bytes of a second-page instruction: 0xCB, then the fields `x`, `y`, `z` (R91, R101). -/
def cbBytes (x y z : Nat) : List Byte := [0xCB, opByte x y z]

/-- The bytes of a well-formed instruction, from the `Encoding:` line of its rule. -/
def encode : Instr → List Byte
  | .ldRR rd rs => [opByte 1 rd.code rs.code]
  | .ldRN8 rd n => [opByte 0 rd.code 6, n]
  | .ldRHl rd => [opByte 1 rd.code 6]
  | .ldHlR rs => [opByte 1 6 rs.code]
  | .ldHlN8 n => [0x36, n]
  | .ldABc => [0x0A]
  | .ldADe => [0x1A]
  | .ldBcA => [0x02]
  | .ldDeA => [0x12]
  | .ldHliA => [0x22]
  | .ldHldA => [0x32]
  | .ldAHli => [0x2A]
  | .ldAHld => [0x3A]
  | .ldA16A a => withWord 0xEA a
  | .ldAA16 a => withWord 0xFA a
  | .ldhA8A o => [0xE0, o]
  | .ldhAA8 o => [0xF0, o]
  | .ldCA => [0xE2]
  | .ldAC => [0xF2]
  | .ldRrN16 p n => withWord (opByte 0 (2 * p.code) 1) n
  | .ldSpHl => [0xF9]
  | .ldHlSpE8 e => [0xF8, e]
  | .ldA16Sp a => withWord 0x08 a
  | .incR rd => [opByte 0 rd.code 4]
  | .incHl => [0x34]
  | .decR rd => [opByte 0 rd.code 5]
  | .decHl => [0x35]
  | .incRr p => [opByte 0 (2 * p.code) 3]
  | .decRr p => [opByte 0 (2 * p.code + 1) 3]
  | .addAR rs => [opByte 2 0 rs.code]
  | .addAHl => [0x86]
  | .addAN8 n => [0xC6, n]
  | .adcAR rs => [opByte 2 1 rs.code]
  | .adcAHl => [0x8E]
  | .adcAN8 n => [0xCE, n]
  | .subR rs => [opByte 2 2 rs.code]
  | .subHl => [0x96]
  | .subN8 n => [0xD6, n]
  | .sbcAR rs => [opByte 2 3 rs.code]
  | .sbcAHl => [0x9E]
  | .sbcAN8 n => [0xDE, n]
  | .andR rs => [opByte 2 4 rs.code]
  | .andHl => [0xA6]
  | .andN8 n => [0xE6, n]
  | .xorR rs => [opByte 2 5 rs.code]
  | .xorHl => [0xAE]
  | .xorN8 n => [0xEE, n]
  | .orR rs => [opByte 2 6 rs.code]
  | .orHl => [0xB6]
  | .orN8 n => [0xF6, n]
  | .cpR rs => [opByte 2 7 rs.code]
  | .cpHl => [0xBE]
  | .cpN8 n => [0xFE, n]
  | .addHlRr p => [opByte 0 (2 * p.code + 1) 1]
  | .addSpE8 e => [0xE8, e]
  | .daa => [0x27]
  | .cpl => [0x2F]
  | .scf => [0x37]
  | .ccf => [0x3F]
  | .jrE8 e => [0x18, e]
  | .jrCcE8 cc e => [opByte 0 (4 + cc.code) 0, e]
  | .jpA16 a => withWord 0xC3 a
  | .jpCcA16 cc a => withWord (opByte 3 cc.code 2) a
  | .jpHl => [0xE9]
  | .callA16 a => withWord 0xCD a
  | .callCcA16 cc a => withWord (opByte 3 cc.code 4) a
  | .ret => [0xC9]
  | .retCc cc => [opByte 3 cc.code 0]
  | .reti => [0xD9]
  | .rst t => [opByte 3 t 7]
  | .pushRr p => [opByte 3 (2 * p.code) 5]
  | .pushAf => [0xF5]
  | .popRr p => [opByte 3 (2 * p.code) 1]
  | .popAf => [0xF1]
  | .nop => [0x00]
  | .di => [0xF3]
  | .ei => [0xFB]
  | .halt => [0x76]
  | .stop => [0x10]
  | .prefixCb op2 => [0xCB, op2]
  | .illegalD3 => [0xD3]
  | .illegalDB => [0xDB]
  | .illegalDD => [0xDD]
  | .illegalE3 => [0xE3]
  | .illegalE4 => [0xE4]
  | .illegalEB => [0xEB]
  | .illegalEC => [0xEC]
  | .illegalED => [0xED]
  | .illegalF4 => [0xF4]
  | .illegalFC => [0xFC]
  | .illegalFD => [0xFD]
  | .rlca => [0x07]
  | .rrca => [0x0F]
  | .rla => [0x17]
  | .rra => [0x1F]
  | .rlcR rs => cbBytes 0 0 rs.code
  | .rlcHl => cbBytes 0 0 6
  | .rrcR rs => cbBytes 0 1 rs.code
  | .rrcHl => cbBytes 0 1 6
  | .rlR rs => cbBytes 0 2 rs.code
  | .rlHl => cbBytes 0 2 6
  | .rrR rs => cbBytes 0 3 rs.code
  | .rrHl => cbBytes 0 3 6
  | .slaR rs => cbBytes 0 4 rs.code
  | .slaHl => cbBytes 0 4 6
  | .sraR rs => cbBytes 0 5 rs.code
  | .sraHl => cbBytes 0 5 6
  | .swapR rs => cbBytes 0 6 rs.code
  | .swapHl => cbBytes 0 6 6
  | .srlR rs => cbBytes 0 7 rs.code
  | .srlHl => cbBytes 0 7 6
  | .bitBR b rs => cbBytes 1 b rs.code
  | .bitBHl b => cbBytes 1 b 6
  | .resBR b rs => cbBytes 2 b rs.code
  | .resBHl b => cbBytes 2 b 6
  | .setBR b rs => cbBytes 3 b rs.code
  | .setBHl b => cbBytes 3 b 6

/-- Length in bytes: 1, 2 or 3 (R90, table FM). -/
def Instr.length : Instr → Nat
  | .ldRR _ _ => 1
  | .ldRN8 _ _ => 2
  | .ldRHl _ => 1
  | .ldHlR _ => 1
  | .ldHlN8 _ => 2
  | .ldABc => 1
  | .ldADe => 1
  | .ldBcA => 1
  | .ldDeA => 1
  | .ldHliA => 1
  | .ldHldA => 1
  | .ldAHli => 1
  | .ldAHld => 1
  | .ldA16A _ => 3
  | .ldAA16 _ => 3
  | .ldhA8A _ => 2
  | .ldhAA8 _ => 2
  | .ldCA => 1
  | .ldAC => 1
  | .ldRrN16 _ _ => 3
  | .ldSpHl => 1
  | .ldHlSpE8 _ => 2
  | .ldA16Sp _ => 3
  | .incR _ => 1
  | .incHl => 1
  | .decR _ => 1
  | .decHl => 1
  | .incRr _ => 1
  | .decRr _ => 1
  | .addAR _ => 1
  | .addAHl => 1
  | .addAN8 _ => 2
  | .adcAR _ => 1
  | .adcAHl => 1
  | .adcAN8 _ => 2
  | .subR _ => 1
  | .subHl => 1
  | .subN8 _ => 2
  | .sbcAR _ => 1
  | .sbcAHl => 1
  | .sbcAN8 _ => 2
  | .andR _ => 1
  | .andHl => 1
  | .andN8 _ => 2
  | .xorR _ => 1
  | .xorHl => 1
  | .xorN8 _ => 2
  | .orR _ => 1
  | .orHl => 1
  | .orN8 _ => 2
  | .cpR _ => 1
  | .cpHl => 1
  | .cpN8 _ => 2
  | .addHlRr _ => 1
  | .addSpE8 _ => 2
  | .daa => 1
  | .cpl => 1
  | .scf => 1
  | .ccf => 1
  | .jrE8 _ => 2
  | .jrCcE8 _ _ => 2
  | .jpA16 _ => 3
  | .jpCcA16 _ _ => 3
  | .jpHl => 1
  | .callA16 _ => 3
  | .callCcA16 _ _ => 3
  | .ret => 1
  | .retCc _ => 1
  | .reti => 1
  | .rst _ => 1
  | .pushRr _ => 1
  | .pushAf => 1
  | .popRr _ => 1
  | .popAf => 1
  | .nop => 1
  | .di => 1
  | .ei => 1
  | .halt => 1
  | .stop => 1
  | .prefixCb _ => 2
  | .illegalD3 => 1
  | .illegalDB => 1
  | .illegalDD => 1
  | .illegalE3 => 1
  | .illegalE4 => 1
  | .illegalEB => 1
  | .illegalEC => 1
  | .illegalED => 1
  | .illegalF4 => 1
  | .illegalFC => 1
  | .illegalFD => 1
  | .rlca => 1
  | .rrca => 1
  | .rla => 1
  | .rra => 1
  | .rlcR _ => 2
  | .rlcHl => 2
  | .rrcR _ => 2
  | .rrcHl => 2
  | .rlR _ => 2
  | .rlHl => 2
  | .rrR _ => 2
  | .rrHl => 2
  | .slaR _ => 2
  | .slaHl => 2
  | .sraR _ => 2
  | .sraHl => 2
  | .swapR _ => 2
  | .swapHl => 2
  | .srlR _ => 2
  | .srlHl => 2
  | .bitBR _ _ => 2
  | .bitBHl _ => 2
  | .resBR _ _ => 2
  | .resBHl _ => 2
  | .setBR _ _ => 2
  | .setBHl _ => 2

/-- Why a list of bytes is no instruction: it ends before the first byte, or before the instruction's last byte. -/
inductive DecodeError where
  | noBytes
  | truncated
  deriving DecidableEq, Repr

/-- The decoder on any list of bytes: the instruction and the bytes after it, or the name of the rejection. -/
def decode (bytes : List Byte) : Except DecodeError (Instr × List Byte) :=
  match bytes with
  | [] => .error .noBytes
  | op :: rest =>
    if (decodeBytes op (rest.getD 0 0) (rest.getD 1 0)).length ≤ rest.length + 1 then
      .ok (decodeBytes op (rest.getD 0 0) (rest.getD 1 0),
        (op :: rest).drop (decodeBytes op (rest.getD 0 0) (rest.getD 1 0)).length)
    else .error .truncated

/-- The three bytes that hold an instruction of `nbits` bits `w`, all bits above `nbits` zero, first byte first. -/
def tableBytes (nbits w : Nat) : List Byte :=
  [byteOf (w % 2 ^ nbits) 0, byteOf (w % 2 ^ nbits) 1, byteOf (w % 2 ^ nbits) 2]

/-- What the decoder reads from an opcode-table word (bit 0 is the least significant bit of the first byte). The rows of
page `cb` number their bits from the second byte, so their words are read here as first bytes (log 6). -/
def decodeTableWord (nbits w : Nat) : Option Instr :=
  match decode (tableBytes nbits w) with
  | .ok (i, _) => some i
  | .error _ => none

end Sys2Proof
end

