-- ==== Sys2Proof/Config.lean ====
section
/-! DEFINITION. The record of the implementation parameters that spec/00_scope.md table P (rule R5) and rule R354 name.
Their values stand in Sys2Proof/Machine/Params.lean (log 13). -/

namespace Sys2Proof

/-- Table P (R5). Every entry that the source does not fix is a field, and so are the echo and unusable windows, which it does
fix. Built in are the widths, the byte order and the T-cycles per M-cycle, which the source fixes, and the flag positions,
which decision D3 fixes (R29). `INIT_MEM` is an argument of a launch (R353); `FRAME_T_CYCLES` is outside the block (R371). -/
structure Config where
  /-- `ECHO_LO`, first address of the echo window. -/
  echoLo : Word
  /-- `ECHO_HI`, first address after the echo window. -/
  echoHi : Word
  /-- `ECHO_OFFSET`, distance down to the mirrored cell. -/
  echoOffset : Word
  /-- `UNUSABLE_LO`, first address of the unusable window. -/
  unusableLo : Word
  /-- `UNUSABLE_HI`, first address after the unusable window. -/
  unusableHi : Word
  /-- `ROM_WRITE_PROTECT` (R76). -/
  romWriteProtect : Bool
  /-- `ROM_HI`, first address after the image window (R358). -/
  romHi : Word
  /-- `HIGH_PAGE`, base of the 8-bit-offset loads. -/
  highPage : Word
  /-- `JOYP_ADDR` (R44, R333). -/
  joypAddr : Word
  /-- `DIV_ADDR`. -/
  divAddr : Word
  /-- `TIMA_ADDR`. -/
  timaAddr : Word
  /-- `TMA_ADDR`. -/
  tmaAddr : Word
  /-- `TAC_ADDR`. -/
  tacAddr : Word
  /-- `IF_ADDR`. -/
  ifAddr : Word
  /-- `IE_ADDR`. -/
  ieAddr : Word
  /-- `DIV_PERIOD` in T-cycles. -/
  divPeriod : Nat
  /-- `TIMER_PERIOD[0..3]` in T-cycles, indexed by `TAC[1:0]`. -/
  timerPeriod : Nat → Nat
  /-- `TAC_ENABLE_BIT`. -/
  tacEnableBit : Nat
  /-- `N_INT`, number of interrupt sources. -/
  nInt : Nat
  /-- `VECTOR[n]`. -/
  vector : Nat → Word
  /-- `TIMER_INT_BIT`. -/
  timerIntBit : Nat
  /-- `INT_DISPATCH_MCYCLES`, cycles that interrupt entry adds to the step's count (R302). -/
  intDispatchMCycles : Nat
  /-- `MCYCLES(opcode, taken)`, the cycle table (R369); none where an instruction reports no count. -/
  mcycles : Instr → Bool → Option Nat
  /-- `HALT_IDLE_MCYCLES`. -/
  haltIdleMCycles : Nat
  /-- `RESET_AF`. -/
  resetAf : Word
  /-- `RESET_BC`. -/
  resetBc : Word
  /-- `RESET_DE`. -/
  resetDe : Word
  /-- `RESET_HL`. -/
  resetHl : Word
  /-- `RESET_SP`. -/
  resetSp : Word
  /-- `RESET_PC`. -/
  resetPc : Word

end Sys2Proof
end

