-- ==== Sys2Proof/Machine/Cycles.lean ====
section
/-! DEFINITION. Table CY (70_reset_and_hazards.md R369, R370): the default of the parameter `MCYCLES(opcode, taken)`. -/

namespace Sys2Proof.Machine

/-- The M-cycle count of an instruction, `taken` whether its condition held: the `mcycles` column of spec/opcode_table.json.
None for STOP and the illegal bytes, which report no count, and for the prefix alone, whose count is the selected
instruction's. -/
def tableCY (i : Instr) (taken : Bool) : Option Nat :=
  match i with
  | .ldRR _ _ => some 1
  | .ldRN8 _ _ => some 2
  | .ldRHl _ => some 2
  | .ldHlR _ => some 2
  | .ldHlN8 _ => some 3
  | .ldABc => some 2
  | .ldADe => some 2
  | .ldBcA => some 2
  | .ldDeA => some 2
  | .ldHliA => some 2
  | .ldHldA => some 2
  | .ldAHli => some 2
  | .ldAHld => some 2
  | .ldA16A _ => some 4
  | .ldAA16 _ => some 4
  | .ldhA8A _ => some 3
  | .ldhAA8 _ => some 3
  | .ldCA => some 2
  | .ldAC => some 2
  | .ldRrN16 _ _ => some 3
  | .ldSpHl => some 2
  | .ldHlSpE8 _ => some 3
  | .ldA16Sp _ => some 5
  | .incR _ => some 1
  | .incHl => some 3
  | .decR _ => some 1
  | .decHl => some 3
  | .incRr _ => some 2
  | .decRr _ => some 2
  | .addAR _ => some 1
  | .addAHl => some 2
  | .addAN8 _ => some 2
  | .adcAR _ => some 1
  | .adcAHl => some 2
  | .adcAN8 _ => some 2
  | .subR _ => some 1
  | .subHl => some 2
  | .subN8 _ => some 2
  | .sbcAR _ => some 1
  | .sbcAHl => some 2
  | .sbcAN8 _ => some 2
  | .andR _ => some 1
  | .andHl => some 2
  | .andN8 _ => some 2
  | .xorR _ => some 1
  | .xorHl => some 2
  | .xorN8 _ => some 2
  | .orR _ => some 1
  | .orHl => some 2
  | .orN8 _ => some 2
  | .cpR _ => some 1
  | .cpHl => some 2
  | .cpN8 _ => some 2
  | .addHlRr _ => some 2
  | .addSpE8 _ => some 4
  | .daa => some 1
  | .cpl => some 1
  | .scf => some 1
  | .ccf => some 1
  | .jrE8 _ => some 3
  | .jrCcE8 _ _ => some (if taken then 3 else 2)
  | .jpA16 _ => some 4
  | .jpCcA16 _ _ => some (if taken then 4 else 3)
  | .jpHl => some 1
  | .callA16 _ => some 6
  | .callCcA16 _ _ => some (if taken then 6 else 3)
  | .ret => some 4
  | .retCc _ => some (if taken then 5 else 2)
  | .reti => some 4
  | .rst _ => some 4
  | .pushRr _ => some 4
  | .pushAf => some 4
  | .popRr _ => some 3
  | .popAf => some 3
  | .nop => some 1
  | .di => some 1
  | .ei => some 1
  | .halt => some 1
  | .stop => none
  | .prefixCb _ => none
  | .illegalD3 => none
  | .illegalDB => none
  | .illegalDD => none
  | .illegalE3 => none
  | .illegalE4 => none
  | .illegalEB => none
  | .illegalEC => none
  | .illegalED => none
  | .illegalF4 => none
  | .illegalFC => none
  | .illegalFD => none
  | .rlca => some 1
  | .rrca => some 1
  | .rla => some 1
  | .rra => some 1
  | .rlcR _ => some 2
  | .rlcHl => some 4
  | .rrcR _ => some 2
  | .rrcHl => some 4
  | .rlR _ => some 2
  | .rlHl => some 4
  | .rrR _ => some 2
  | .rrHl => some 4
  | .slaR _ => some 2
  | .slaHl => some 4
  | .sraR _ => some 2
  | .sraHl => some 4
  | .swapR _ => some 2
  | .swapHl => some 4
  | .srlR _ => some 2
  | .srlHl => some 4
  | .bitBR _ _ => some 2
  | .bitBHl _ => some 3
  | .resBR _ _ => some 2
  | .resBHl _ => some 4
  | .setBR _ _ => some 2
  | .setBHl _ => some 4

end Sys2Proof.Machine
end

