-- ==== Sys2Proof/Machine/Params.lean ====
section
/-! DEFINITION. The values of the implementation parameters: spec/00_scope.md table P (R5) and the rules it names. -/

namespace Sys2Proof.Machine

/-- `TIMER_PERIOD[0..3]` (R43, R325). -/
def timerPeriods (sel : Nat) : Nat :=
  match sel with
  | 0 => 1024
  | 1 => 16
  | 2 => 64
  | _ => 256

/-- `VECTOR[n] = 0x0040 + 8 * n` (R316). -/
def vectors (n : Nat) : Word := BitVec.ofNat 16 (0x40 + 8 * n)

/-- Table P with its default values, the default argument of everything that reads a parameter (R5, log 13). -/
def params : Config where
  echoLo := 0xE000
  echoHi := 0xFE00
  echoOffset := 0x2000
  unusableLo := 0xFEA0
  unusableHi := 0xFEFF
  romWriteProtect := false
  romHi := 0x8000
  highPage := 0xFF00
  joypAddr := 0xFF00
  divAddr := 0xFF04
  timaAddr := 0xFF05
  tmaAddr := 0xFF06
  tacAddr := 0xFF07
  ifAddr := 0xFF0F
  ieAddr := 0xFFFF
  divPeriod := 256
  timerPeriod := timerPeriods
  tacEnableBit := 2
  nInt := 5
  vector := vectors
  timerIntBit := 2
  intDispatchMCycles := 0
  mcycles := tableCY
  haltIdleMCycles := 1
  resetAf := 0x01B0
  resetBc := 0x0013
  resetDe := 0x00D8
  resetHl := 0x014D
  resetSp := 0xFFFE
  resetPc := 0x0100

end Sys2Proof.Machine
end

