-- ==== Sys2Proof/Machine/State.lean ====
section
/-! DEFINITION. The state (10_state.md), the reasons a step can stop, and the state after reset (R52, R350). -/

namespace Sys2Proof.Machine

/-- The two causes of the fatal error (60_exceptions.md R304). -/
inductive FatalKind where
  /-- One of the eleven unassigned opcode bytes (R246). -/
  | illegal
  /-- `STOP` (R244). -/
  | unimplemented
  deriving DecidableEq, Repr

/-- What `raise Fatal(kind, opcode, addr)` records (R50, R304). -/
structure FatalRecord where
  kind   : FatalKind
  opcode : Byte
  addr   : Word
  deriving DecidableEq, Repr

/-- Memory: address and byte pairs, addresses strictly rising, no entry equal to what an unlisted address reads as
(`Memory.wf`, log 11). -/
abbrev Memory := List Host.Cell

/-- Everything the spec gives the machine (10_state.md R20 to R50). AF, BC, DE and HL are held as their halves (R22). The
seven memory-mapped registers of R37 are bytes of `mem`. -/
structure State where
  /-- A, high half of AF (R21). -/
  a : Byte
  /-- F, low half of AF: Z, N, H, C in bits 7 to 4 (R29). -/
  f : Byte
  /-- B, high half of BC (R21). -/
  b : Byte
  /-- C, low half of BC (R21). -/
  c : Byte
  /-- D, high half of DE (R21). -/
  d : Byte
  /-- E, low half of DE (R21). -/
  e : Byte
  /-- H, high half of HL (R21). -/
  h : Byte
  /-- L, low half of HL (R21). -/
  l : Byte
  /-- SP (R34). -/
  sp : Word
  /-- PC (R26). -/
  pc : Word
  /-- IME, the interrupt master enable (R36). -/
  ime : Bool
  /-- The wait state (R49). -/
  halted : Bool
  /-- T-cycles not yet drained into DIV (R47). -/
  divAcc : Nat
  /-- T-cycles not yet drained into TIMA (R47). -/
  timaAcc : Nat
  /-- The fatal error, once raised (R50). -/
  fatal : Option FatalRecord
  /-- The memory (R48). -/
  mem : Memory
  /-- The model's own field: the `Elapsed(m)` output of the last step, none where it had none (R302, log 2). -/
  elapsed : Option Nat
  deriving DecidableEq, Repr

/-- The reasons a step can stop with a fault. -/
inductive Fault where
  /-- Raised by `step` alone, in a state that already holds a fatal record: there is no step from it and the host is told
  the same fatal error again (60_exceptions.md R305). Safe: the machine stops where the hardware stops. -/
  | fatalState (r : FatalRecord)
  deriving DecidableEq, Repr

/-- The reasons an instruction can be refused. -/
inductive Refusal where
  /-- Raised by an arm of `exec` for an instruction without a meaning; no arm does. Safe. -/
  | notModelled (mnemonic : String)
  deriving DecidableEq, Repr

/-- The state after `Reset` (table RV, R52; R350), its register values parameters (00_scope.md R5), with no image and nothing
else placed in memory: the six registers of table RV read 0x00, and so does every byte of `INIT_MEM` (log 1).
`State.launch` is the same with an image and any `INIT_MEM`. -/
def State.resetIn (cfg : Config) : State where
  a := hiByte cfg.resetAf
  f := loByte cfg.resetAf
  b := hiByte cfg.resetBc
  c := loByte cfg.resetBc
  d := hiByte cfg.resetDe
  e := loByte cfg.resetDe
  h := hiByte cfg.resetHl
  l := loByte cfg.resetHl
  sp := cfg.resetSp
  pc := cfg.resetPc
  ime := false
  halted := false
  divAcc := 0
  timaAcc := 0
  fatal := none
  mem := []
  elapsed := none

/-- The state after reset, with the parameters' default values. -/
def State.reset : State := State.resetIn params

end Sys2Proof.Machine
end

