-- ==== Sys2Proof/Machine/Ops.lean ====
section
/-! DEFINITION. The named operations: memory and its address decoder (20_memory.md), the stack primitives
(45_call_ret_stack.md R220, R221), fetching an instruction, the fatal error (60_exceptions.md R304), interrupt requests,
interrupt entry and the return from it (R309, R315, R318). Every operation that reads a parameter of table P takes the record as
its last argument (00_scope.md R5; log 13). -/

namespace Sys2Proof.Machine

/-! ### Memory as data -/

/-- What an address that is not listed reads as (log 1). -/
def Memory.unlisted (_ : Nat) : Byte := 0

/-- The stored byte of a cell, `mem[a]` (R60). -/
def Memory.read : Memory → Nat → Byte
  | [], a => Memory.unlisted a
  | (k, v) :: rest, a => if k = a then v else Memory.read rest a

/-- The list without the entries of one address. -/
def Memory.erase : Memory → Nat → Memory
  | [], _ => []
  | (k, v) :: rest, a => if k = a then Memory.erase rest a else (k, v) :: Memory.erase rest a

/-- One entry put in before the first higher address. -/
def Memory.insert : Memory → Nat → Byte → Memory
  | [], a, v => [(a, v)]
  | (k, w) :: rest, a, v => if a < k then (a, v) :: (k, w) :: rest else (k, w) :: Memory.insert rest a v

/-- `mem[a] <- v` on the list, in canonical form. -/
def Memory.write (m : Memory) (a : Nat) (v : Byte) : Memory :=
  if v = Memory.unlisted a then m.erase a else (m.erase a).insert a v

/-- The canonical form: addresses strictly rising and inside the 64 KiB (R48), no entry equal to what an unlisted address
reads as. -/
abbrev Memory.wf (m : Memory) : Prop :=
  m.Pairwise (fun p q => p.1 < q.1) ∧ ∀ p ∈ m, p.1 < 65536 ∧ p.2 ≠ Memory.unlisted p.1

/-! ### The memory primitives -/

/-- `readByte(addr)`: the raw stored byte, pure, for every address (R60, R73). -/
def State.readByte (s : State) (a : Word) : Byte := s.mem.read a.toNat

/-- `mem[a] <- v` without the write decoder (00_scope.md R8). -/
def State.poke (s : State) (a : Word) (v : Byte) : State := { s with mem := s.mem.write a.toNat v }

/-- The echo window (R61). -/
def inEcho (a : Word) (cfg : Config := params) : Bool := cfg.echoLo ≤ a && a < cfg.echoHi

/-- The unusable window (R61, R63). -/
def inUnusable (a : Word) (cfg : Config := params) : Bool := cfg.unusableLo ≤ a && a < cfg.unusableHi

/-- A store that a write-protected ROM window would ignore (R76; the default is false). -/
def romProtected (a : Word) (cfg : Config := params) : Bool := cfg.romWriteProtect && a < cfg.romHi

/-- `writeByte(addr, value)`, the address decoder (R61). -/
def State.writeByte (s : State) (a : Word) (v : Byte) (cfg : Config := params) : State :=
  if inEcho a cfg then (s.poke a v).poke (a - cfg.echoOffset) v
  else if inUnusable a cfg || romProtected a cfg then s
  else s.poke a v

/-- `readWord(addr)`, little-endian, `addr + 1` modulo 2^16 (R64). -/
def State.readWord (s : State) (a : Word) : Word := mkWord (s.readByte (a + 1)) (s.readByte a)

/-- `writeWord(addr, value)`: the low byte at `addr`, then the high byte at `addr + 1`, each through the decoder (R65). -/
def State.writeWord (s : State) (a v : Word) (cfg : Config := params) : State :=
  (s.writeByte a (loByte v) cfg).writeByte (a + 1) (hiByte v) cfg

/-! ### Register writes and the step's output -/

/-- `pc <- target` (R9). -/
def State.setPc (s : State) (t : Word) : State := { s with pc := t }

/-- SP written (R34). -/
def State.setSp (s : State) (t : Word) : State := { s with sp := t }

/-- `IME <- v` (R36). -/
def State.setIme (s : State) (v : Bool) : State := { s with ime := v }

/-- `halted <- v` (R49). -/
def State.setHalted (s : State) (v : Bool) : State := { s with halted := v }

/-- The M-cycle count an instruction or an idle step reports, the step's `Elapsed(m)` (R9, R302). -/
def State.report (s : State) (m : Option Nat) : State := { s with elapsed := m }

/-- Cycles added to the count the step reports (R302). -/
def State.addMCycles (s : State) (k : Nat) : State := { s with elapsed := s.elapsed.map (fun m => m + k) }

/-- An instruction that completes and reports the count `m` of the cycle table (R369). -/
def complete (m : Option Nat) (s : State) : Host.Outcome State Fault Refusal := .next (s.report m)

/-! ### The stack primitives -/

/-- `Push16(v)`: high byte at SP-1, then low byte at SP-2 (R220). -/
def State.push16 (s : State) (v : Word) (cfg : Config := params) : State :=
  ((s.writeByte (s.sp - 1) (hiByte v) cfg).writeByte (s.sp - 2) (loByte v) cfg).setSp (s.sp - 2)

/-- The word `Pop16()` returns: low byte at SP, high byte at SP+1 (R221). -/
def State.popWord (s : State) : Word := mkWord (s.readByte (s.sp + 1)) (s.readByte s.sp)

/-- What `Pop16()` leaves: SP two more, memory as it was (R221). -/
def State.popped (s : State) : State := s.setSp (s.sp + 2)

/-- `pc <- Pop16()`: the return from a call, and from an interrupt (R224, R318). -/
def State.popPc (s : State) : State := s.popped.setPc s.popWord

/-- `Push16(PC); pc <- target`: the call (R222, R227). -/
def State.callTo (s : State) (t : Word) (cfg : Config := params) : State := (s.push16 s.pc cfg).setPc t

/-! ### The fatal error -/

/-- `raise Fatal(kind, opcode, addr)`, `addr` the address the opcode byte was fetched from: PC stays one past it, nothing is
reported (R304; log 3). The meaning of the illegal bytes and of STOP, run with PC past their one byte. -/
def State.raiseFatal (s : State) (k : FatalKind) (op : Byte) : State :=
  { s with fatal := some ⟨k, op, s.pc - 1⟩, elapsed := none }

/-! ### Interrupts -/

/-- `RequestInterrupt(n)` (R309). -/
def State.requestInterrupt (s : State) (n : Nat) (cfg : Config := params) : State :=
  s.poke cfg.ifAddr (setBit (s.readByte cfg.ifAddr) n)

/-- `mem[IE_ADDR] & mem[IF_ADDR] & 0x1F` (R300, R308). -/
def State.pending (s : State) (cfg : Config := params) : Byte :=
  s.readByte cfg.ieAddr &&& s.readByte cfg.ifAddr &&& 0x1F

/-- The least source number whose bit is set (R313). -/
def lowestSource (pend : Byte) (cfg : Config := params) : Option Nat := (List.range cfg.nInt).find? (fun i => bitAt pend i)

/-- Interrupt entry for source `n` (R315): IME and halted cleared, PC pushed, the request bit cleared after the push, PC to
the fixed vector; `INT_DISPATCH_MCYCLES`, 0 by default, added to the count the step reports (R302). -/
def State.enterInterrupt (s : State) (n : Nat) (cfg : Config := params) : State :=
  let t := ((s.setIme false).setHalted false).push16 s.pc cfg
  ((t.poke cfg.ifAddr (clearBit (t.readByte cfg.ifAddr) n)).setPc (cfg.vector n)).addMCycles cfg.intDispatchMCycles

/-- `HandleInterrupts()` (R315). -/
def State.handleInterrupts (s : State) (cfg : Config := params) : State :=
  if s.ime then
    match lowestSource (s.pending cfg) cfg with
    | some n => s.enterInterrupt n cfg
    | none => s
  else s

/-- `pc <- Pop16(); IME <- 1`: the return that opens the gate (R226, R318). -/
def State.returnFromInterrupt (s : State) : State := s.popPc.setIme true

/-! ### Fetch -/

/-- The instruction at PC, from the bytes `readByte` gives at PC, PC+1, PC+2 modulo 2^16 (R26, R27, R82; log 4). -/
def State.fetched (s : State) : Instr :=
  decodeBytes (s.readByte s.pc) (s.readByte (s.pc + 1)) (s.readByte (s.pc + 2))

/-- PC moved past an instruction, one per byte fetched (R27). -/
def State.pastInstr (s : State) (i : Instr) : State := s.setPc (s.pc + BitVec.ofNat 16 i.length)

/-- The step idles: halted, and no enabled request or IME set (R300). -/
def State.idles (s : State) (cfg : Config := params) : Bool := s.halted && (s.pending cfg == 0 || s.ime)

/-- The three bytes at PC, for placing an instruction there from outside (log 8). -/
def State.placeAtPc (s : State) (b0 b1 b2 : Byte) : State :=
  ((s.poke s.pc b0).poke (s.pc + 1) b1).poke (s.pc + 2) b2

end Sys2Proof.Machine
end

