-- ==== Sys2Proof/Machine/Operands.lean ====
section
/-! DEFINITION. Operand access: registers, pairs, the six Register Pairs as words, addresses (10_state.md R20 to R25;
30_encoding.md R93 to R96). -/

namespace Sys2Proof.Machine

/-- `r8[i]` read (R95). -/
def State.readR8 (s : State) (r : Reg8) : Byte :=
  match r with
  | .b => s.b
  | .c => s.c
  | .d => s.d
  | .e => s.e
  | .h => s.h
  | .l => s.l
  | .a => s.a

/-- `r8[i] <- v`: the other half of the pair is untouched (R22, R95). -/
def State.writeR8 (s : State) (r : Reg8) (v : Byte) : State :=
  match r with
  | .b => { s with b := v }
  | .c => { s with c := v }
  | .d => { s with d := v }
  | .e => { s with e := v }
  | .h => { s with h := v }
  | .l => { s with l := v }
  | .a => { s with a := v }

/-- AF (R21). -/
def State.af (s : State) : Word := mkWord s.a s.f

/-- BC (R21). -/
def State.bc (s : State) : Word := mkWord s.b s.c

/-- DE (R21). -/
def State.de (s : State) : Word := mkWord s.d s.e

/-- HL (R21). -/
def State.hl (s : State) : Word := mkWord s.h s.l

/-- HL written: both halves (R22). -/
def State.setHl (s : State) (w : Word) : State := { s with h := hiByte w, l := loByte w }

/-- The six Register Pairs (R21). -/
inductive RegPair where
  | af | bc | de | hl | pc | sp
  deriving DecidableEq, Repr

/-- `getWord()` (R20). -/
def State.getWord (s : State) (p : RegPair) : Word :=
  match p with
  | .af => s.af
  | .bc => s.bc
  | .de => s.de
  | .hl => s.hl
  | .pc => s.pc
  | .sp => s.sp

/-- `setWord(w)`: both halves assigned (R20, R25). -/
def State.setWord (s : State) (p : RegPair) (w : Word) : State :=
  match p with
  | .af => { s with a := hiByte w, f := loByte w }
  | .bc => { s with b := hiByte w, c := loByte w }
  | .de => { s with d := hiByte w, e := loByte w }
  | .hl => s.setHl w
  | .pc => s.setPc w
  | .sp => s.setSp w

/-- The Register Pair of a field `r16` (R96). -/
def pairOfReg16 (p : Reg16) : RegPair :=
  match p with
  | .bc => .bc
  | .de => .de
  | .hl => .hl
  | .sp => .sp

/-- The Register Pair of a field `r16s` other than AF (R96). -/
def pairOfStack (p : StackPair) : RegPair :=
  match p with
  | .bc => .bc
  | .de => .de
  | .hl => .hl

/-- `r16[i]` read (R96). -/
def State.readR16 (s : State) (p : Reg16) : Word := s.getWord (pairOfReg16 p)

/-- `r16[i] <- w` (R96). -/
def State.writeR16 (s : State) (p : Reg16) (w : Word) : State := s.setWord (pairOfReg16 p) w

/-- `r16s[i]` read (R96). -/
def State.readStackPair (s : State) (p : StackPair) : Word := s.getWord (pairOfStack p)

/-- `r16s[i] <- w` (R96). -/
def State.writeStackPair (s : State) (p : StackPair) (w : Word) : State := s.setWord (pairOfStack p) w

/-- A written (R23). -/
def State.setA (s : State) (v : Byte) : State := { s with a := v }

/-- The byte at HL (R95). -/
def State.atHl (s : State) : Byte := s.readByte s.hl

/-- The byte at HL written, through the decoder (R95, R120). -/
def State.storeAtHl (s : State) (v : Byte) (cfg : Config := params) : State := s.writeByte s.hl v cfg

/-- The high-page address `0xFF00 + zext_16(o)` (R93, R136). -/
def highPage (o : Byte) (cfg : Config := params) : Word := cfg.highPage + zext16 o

/-- The target of a relative jump from the PC past the operand (R210). -/
def State.relative (s : State) (e : Byte) : Word := s.pc + sext16 e

/-- The RST target `8 * t` (R98, R227). -/
def rstTarget (t : Nat) : Word := BitVec.ofNat 16 (8 * t)

end Sys2Proof.Machine
end

