-- ==== Sys2Proof/Machine/Flags.lean ====
section
/-! DEFINITION. The flags (10_state.md R29 to R33), the condition test (30_encoding.md R97), and the arithmetic, logic and
rotate functions with the flags they give (41_incdec.md R160, R161; 42_arith.md R170 to R175, R188, R190, R191; 43_logic.md;
47_rotate_cb.md R254), and the cycle table as a parameter (70_reset_and_hazards.md R369). -/

namespace Sys2Proof.Machine

/-- The four flags in the order Z N H C (R29). -/
structure Flags where
  z : Bool
  n : Bool
  h : Bool
  c : Bool
  deriving DecidableEq, Repr

/-- The flags in their bit positions, low nibble zero (R7, R29). -/
def Flags.pack (fl : Flags) : Byte :=
  (if fl.z then 0x80 else 0) ||| (if fl.n then 0x40 else 0) ||| (if fl.h then 0x20 else 0) ||| (if fl.c then 0x10 else 0)

/-- `F.Z` (R29). -/
def State.flagZ (s : State) : Bool := bitAt s.f 7

/-- `F.N` (R29). -/
def State.flagN (s : State) : Bool := bitAt s.f 6

/-- `F.H` (R29). -/
def State.flagH (s : State) : Bool := bitAt s.f 5

/-- `F.C` (R29). -/
def State.flagC (s : State) : Bool := bitAt s.f 4

/-- `F <- {z, n, h, c}`: all four written, `F[3:0]` zero (R7). -/
def State.assignF (s : State) (fl : Flags) : State := { s with f := fl.pack }

/-- The flag bits `F.Z`, `F.N`, `F.H`, `F.C` written one by one: only bits 7 to 4 change (R30; log 7). -/
def State.writeFlags (s : State) (fl : Flags) : State := { s with f := (s.f &&& 0x0F) ||| fl.pack }

/-- `cond(cc)` (R97). -/
def State.cond (s : State) (cc : Cond) : Bool :=
  match cc with
  | .nz => !s.flagZ
  | .z => s.flagZ
  | .nc => !s.flagC
  | .c => s.flagC

/-- The condition of a conditional instruction holds (70_reset_and_hazards.md R370). -/
def State.taken (s : State) (i : Instr) : Bool :=
  match i with
  | .jrCcE8 cc _ => s.cond cc
  | .jpCcA16 cc _ => s.cond cc
  | .callCcA16 cc _ => s.cond cc
  | .retCc cc => s.cond cc
  | _ => false

/-- `MCYCLES(opcode, taken)` (R369); a 0xCB-page count includes the prefix. -/
def mcycles (i : Instr) (taken : Bool) (cfg : Config := params) : Option Nat := cfg.mcycles i.canonical taken

/-- A result byte and the flags it is given with. -/
structure Alu where
  val : Byte
  flags : Flags
  deriving DecidableEq, Repr

/-- `v & 0xF` as a number. -/
def lowNibble (v : Byte) : Nat := (v &&& 0xF).toNat

/-- `add8(a, b, c)` (R170, R171, R174). -/
def add8 (a b : Byte) (c : Bool) : Alu where
  val := BitVec.ofNat 8 (a.toNat + b.toNat + c.toNat)
  flags :=
    { z := BitVec.ofNat 8 (a.toNat + b.toNat + c.toNat) == 0
      n := false
      h := lowNibble a + lowNibble b + c.toNat > 0xF
      c := a.toNat + b.toNat + c.toNat > 0xFF }

/-- `sub8(a, b, c)`: the difference in integers, the result modulo 256 (R172, R175). -/
def sub8 (a b : Byte) (c : Bool) : Alu where
  val := BitVec.ofInt 8 ((a.toNat : Int) - b.toNat - c.toNat)
  flags :=
    { z := BitVec.ofInt 8 ((a.toNat : Int) - b.toNat - c.toNat) == 0
      n := true
      h := lowNibble a < lowNibble b + c.toNat
      c := (a.toNat : Int) - b.toNat - c.toNat < 0 }

/-- `inc8(v)`, the carry flag passed through (R160). -/
def inc8 (v : Byte) (c : Bool) : Alu where
  val := v + 1
  flags := { z := v + 1 == 0, n := false, h := v &&& 0xF == 0xF, c := c }

/-- `dec8(v)`, the carry flag passed through (R161). -/
def dec8 (v : Byte) (c : Bool) : Alu where
  val := v - 1
  flags := { z := v - 1 == 0, n := true, h := v &&& 0xF == 0, c := c }

/-- AND with its flags `{Z, 0, 1, 0}` (R195). -/
def and8 (a b : Byte) : Alu where
  val := a &&& b
  flags := { z := a &&& b == 0, n := false, h := true, c := false }

/-- XOR with its flags `{Z, 0, 0, 0}` (R198). -/
def xor8 (a b : Byte) : Alu where
  val := a ^^^ b
  flags := { z := a ^^^ b == 0, n := false, h := false, c := false }

/-- OR with its flags `{Z, 0, 0, 0}` (R201). -/
def or8 (a b : Byte) : Alu where
  val := a ||| b
  flags := { z := a ||| b == 0, n := false, h := false, c := false }

/-- The flags of `ADD HL,rr`: boundaries 0xFFF and 0xFFFF, Z kept (R173, R188). -/
def addHlFlags (z : Bool) (a b : Word) : Flags where
  z := z
  n := false
  h := (a &&& 0xFFF).toNat + (b &&& 0xFFF).toNat > 0xFFF
  c := a.toNat + b.toNat > 0xFFFF

/-- The word `spadd(sp, e)` returns (R191). -/
def spaddWord (sp : Word) (e : Byte) : Word := sp + sext16 e

/-- The flags `spadd(sp, e)` sets: the 8-bit laws on the low byte (R191). -/
def spaddFlags (sp : Word) (e : Byte) : Flags where
  z := false
  n := false
  h := (sp &&& 0xF).toNat + lowNibble e > 0xF
  c := (sp &&& 0xFF).toNat + e.toNat > 0xFF

/-- The high adjustment of `DAA` after an addition applies (R190). -/
def daaHigh (a : Byte) (c : Bool) : Bool := c || a.toNat > 0x99

/-- The adjusted accumulator of `DAA` (R190). -/
def daaVal (a : Byte) (n h c : Bool) : Byte :=
  if n then
    let x := if c then a - 0x60 else a
    if h then x - 0x06 else x
  else
    let x := if daaHigh a c then a + 0x60 else a
    if h || lowNibble a > 9 then x + 0x06 else x

/-- `DAA` with its flags: N kept, H cleared, C set by the high adjustment after an addition and otherwise kept (R190). -/
def daa8 (a : Byte) (n h c : Bool) : Alu where
  val := daaVal a n h c
  flags := { z := daaVal a n h c == 0, n := n, h := false, c := if n then c else daaHigh a c }

/-- The rotates and shifts of R254, `f(v, c_in) -> (result, c_out)`. -/
inductive Rotate where
  | rlc | rrc | rl | rr | sla | sra | swap | srl
  deriving DecidableEq, Repr

/-- The result byte of a rotate or shift (R255 to R269). -/
def Rotate.result (o : Rotate) (v : Byte) (cIn : Bool) : Byte :=
  match o with
  | .rlc => (v <<< 1) ||| bitByte (bitAt v 7)
  | .rrc => (v >>> 1) ||| (bitByte (bitAt v 0) <<< 7)
  | .rl => (v <<< 1) ||| bitByte cIn
  | .rr => (v >>> 1) ||| (bitByte cIn <<< 7)
  | .sla => v <<< 1
  | .sra => (v >>> 1) ||| (bitByte (bitAt v 7) <<< 7)
  | .swap => (v <<< 4) ||| (v >>> 4)
  | .srl => v >>> 1

/-- The bit a rotate or shift moves to the carry; SWAP clears it (R255 to R269). -/
def Rotate.carry (o : Rotate) (v : Byte) : Bool :=
  match o with
  | .rlc => bitAt v 7
  | .rrc => bitAt v 0
  | .rl => bitAt v 7
  | .rr => bitAt v 0
  | .sla => bitAt v 7
  | .sra => bitAt v 0
  | .swap => false
  | .srl => bitAt v 0

/-- The flags of a 0xCB-page rotate or shift, `{Z, 0, 0, c}` (R255). -/
def Rotate.flags (o : Rotate) (v : Byte) (cIn : Bool) : Flags where
  z := o.result v cIn == 0
  n := false
  h := false
  c := o.carry v

/-- The flags of a one-byte rotate of A, Z forced to 0 (R250). -/
def Rotate.flagsA (o : Rotate) (v : Byte) : Flags where
  z := false
  n := false
  h := false
  c := o.carry v

/-- The flags of `BIT b`: Z is the complement of the tested bit, C kept (R271). -/
def bitFlags (v : Byte) (i : Nat) (c : Bool) : Flags where
  z := !bitAt v i
  n := false
  h := true
  c := c

end Sys2Proof.Machine
end

