-- ==== Sys2Proof/Machine/Arith.lean ====
section
/-! DEFINITION. The meanings of add, subtract and decimal adjust (42_arith.md R170 to R191). -/

namespace Sys2Proof.Machine

/-- `A <- x` with the flags of an addition, subtraction or decimal adjust, the four flag bits written (R174, R175, R190). -/
def State.accumulate (s : State) (x : Alu) : State := (s.setA x.val).writeFlags x.flags

/-- `ADD A,r` (R176). -/
def execAddAR (rs : Reg8) (s : State) (cfg : Config := params) : Host.Outcome State Fault Refusal :=
  complete (cfg.mcycles (.addAR rs) false) (s.accumulate (add8 s.a (s.readR8 rs) false))

/-- `ADD A,(HL)` (R177). -/
def execAddAHl (s : State) (cfg : Config := params) : Host.Outcome State Fault Refusal :=
  complete (cfg.mcycles .addAHl false) (s.accumulate (add8 s.a s.atHl false))

/-- `ADD A,n8` (R178). -/
def execAddAN8 (n : Byte) (s : State) (cfg : Config := params) : Host.Outcome State Fault Refusal :=
  complete (cfg.mcycles (.addAN8 n) false) (s.accumulate (add8 s.a n false))

/-- `ADC A,r` (R179). -/
def execAdcAR (rs : Reg8) (s : State) (cfg : Config := params) : Host.Outcome State Fault Refusal :=
  complete (cfg.mcycles (.adcAR rs) false) (s.accumulate (add8 s.a (s.readR8 rs) s.flagC))

/-- `ADC A,(HL)` (R180). -/
def execAdcAHl (s : State) (cfg : Config := params) : Host.Outcome State Fault Refusal :=
  complete (cfg.mcycles .adcAHl false) (s.accumulate (add8 s.a s.atHl s.flagC))

/-- `ADC A,n8` (R181). -/
def execAdcAN8 (n : Byte) (s : State) (cfg : Config := params) : Host.Outcome State Fault Refusal :=
  complete (cfg.mcycles (.adcAN8 n) false) (s.accumulate (add8 s.a n s.flagC))

/-- `SUB r` (R182). -/
def execSubR (rs : Reg8) (s : State) (cfg : Config := params) : Host.Outcome State Fault Refusal :=
  complete (cfg.mcycles (.subR rs) false) (s.accumulate (sub8 s.a (s.readR8 rs) false))

/-- `SUB (HL)` (R183). -/
def execSubHl (s : State) (cfg : Config := params) : Host.Outcome State Fault Refusal :=
  complete (cfg.mcycles .subHl false) (s.accumulate (sub8 s.a s.atHl false))

/-- `SUB n8` (R184). -/
def execSubN8 (n : Byte) (s : State) (cfg : Config := params) : Host.Outcome State Fault Refusal :=
  complete (cfg.mcycles (.subN8 n) false) (s.accumulate (sub8 s.a n false))

/-- `SBC A,r` (R185). -/
def execSbcAR (rs : Reg8) (s : State) (cfg : Config := params) : Host.Outcome State Fault Refusal :=
  complete (cfg.mcycles (.sbcAR rs) false) (s.accumulate (sub8 s.a (s.readR8 rs) s.flagC))

/-- `SBC A,(HL)` (R186). -/
def execSbcAHl (s : State) (cfg : Config := params) : Host.Outcome State Fault Refusal :=
  complete (cfg.mcycles .sbcAHl false) (s.accumulate (sub8 s.a s.atHl s.flagC))

/-- `SBC A,n8` (R187). -/
def execSbcAN8 (n : Byte) (s : State) (cfg : Config := params) : Host.Outcome State Fault Refusal :=
  complete (cfg.mcycles (.sbcAN8 n) false) (s.accumulate (sub8 s.a n s.flagC))

/-- `ADD HL,rr` (R188). -/
def execAddHlRr (p : Reg16) (s : State) (cfg : Config := params) : Host.Outcome State Fault Refusal :=
  complete (cfg.mcycles (.addHlRr p) false)
    ((s.setHl (s.hl + s.readR16 p)).writeFlags (addHlFlags s.flagZ s.hl (s.readR16 p)))

/-- `ADD SP,e8` (R189). -/
def execAddSpE8 (e : Byte) (s : State) (cfg : Config := params) : Host.Outcome State Fault Refusal :=
  complete (cfg.mcycles (.addSpE8 e) false) ((s.setSp (spaddWord s.sp e)).writeFlags (spaddFlags s.sp e))

/-- `DAA` (R190). -/
def execDaa (s : State) (cfg : Config := params) : Host.Outcome State Fault Refusal :=
  complete (cfg.mcycles .daa false) (s.accumulate (daa8 s.a s.flagN s.flagH s.flagC))

end Sys2Proof.Machine
end

