-- ==== Sys2Proof/Machine/IncDec.lean ====
section
/-! DEFINITION. The meanings of increment and decrement (41_incdec.md R160 to R167). -/

namespace Sys2Proof.Machine

/-- `INC r` (R162). -/
def execIncR (rd : Reg8) (s : State) (cfg : Config := params) : Host.Outcome State Fault Refusal :=
  complete (cfg.mcycles (.incR rd) false)
    ((s.writeR8 rd (inc8 (s.readR8 rd) s.flagC).val).writeFlags (inc8 (s.readR8 rd) s.flagC).flags)

/-- `INC (HL)` (R163). -/
def execIncHl (s : State) (cfg : Config := params) : Host.Outcome State Fault Refusal :=
  complete (cfg.mcycles .incHl false)
    ((s.storeAtHl (inc8 s.atHl s.flagC).val cfg).writeFlags (inc8 s.atHl s.flagC).flags)

/-- `DEC r` (R164). -/
def execDecR (rd : Reg8) (s : State) (cfg : Config := params) : Host.Outcome State Fault Refusal :=
  complete (cfg.mcycles (.decR rd) false)
    ((s.writeR8 rd (dec8 (s.readR8 rd) s.flagC).val).writeFlags (dec8 (s.readR8 rd) s.flagC).flags)

/-- `DEC (HL)` (R165). -/
def execDecHl (s : State) (cfg : Config := params) : Host.Outcome State Fault Refusal :=
  complete (cfg.mcycles .decHl false)
    ((s.storeAtHl (dec8 s.atHl s.flagC).val cfg).writeFlags (dec8 s.atHl s.flagC).flags)

/-- `INC rr` (R166). -/
def execIncRr (p : Reg16) (s : State) (cfg : Config := params) : Host.Outcome State Fault Refusal :=
  complete (cfg.mcycles (.incRr p) false) (s.writeR16 p (s.readR16 p + 1))

/-- `DEC rr` (R167). -/
def execDecRr (p : Reg16) (s : State) (cfg : Config := params) : Host.Outcome State Fault Refusal :=
  complete (cfg.mcycles (.decRr p) false) (s.writeR16 p (s.readR16 p - 1))

end Sys2Proof.Machine
end

