-- ==== Sys2Proof/Machine/Jumps.lean ====
section
/-! DEFINITION. The meanings of the jumps (44_jumps.md R210 to R214). -/

namespace Sys2Proof.Machine

/-- `JR e8` (R210). -/
def execJrE8 (e : Byte) (s : State) (cfg : Config := params) : Host.Outcome State Fault Refusal :=
  complete (cfg.mcycles (.jrE8 e) false) (s.setPc (s.relative e))

/-- `JR cc,e8` (R211). -/
def execJrCcE8 (cc : Cond) (e : Byte) (s : State) (cfg : Config := params) : Host.Outcome State Fault Refusal :=
  if s.cond cc then
    complete (cfg.mcycles (.jrCcE8 cc e) true) (s.setPc (s.relative e))
  else
    complete (cfg.mcycles (.jrCcE8 cc e) false) s

/-- `JP a16` (R212). -/
def execJpA16 (a : Word) (s : State) (cfg : Config := params) : Host.Outcome State Fault Refusal :=
  complete (cfg.mcycles (.jpA16 a) false) (s.setPc a)

/-- `JP cc,a16` (R213). -/
def execJpCcA16 (cc : Cond) (a : Word) (s : State) (cfg : Config := params) : Host.Outcome State Fault Refusal :=
  if s.cond cc then
    complete (cfg.mcycles (.jpCcA16 cc a) true) (s.setPc a)
  else
    complete (cfg.mcycles (.jpCcA16 cc a) false) s

/-- `JP HL` (R214). -/
def execJpHl (s : State) (cfg : Config := params) : Host.Outcome State Fault Refusal :=
  complete (cfg.mcycles .jpHl false) (s.setPc s.hl)

end Sys2Proof.Machine
end

