-- ==== Sys2Proof/Machine/Loads.lean ====
section
/-! DEFINITION. The meanings of the loads (40_loads.md R120 to R146). -/

namespace Sys2Proof.Machine

/-- `LD r,r'` (R121). -/
def execLdRR (rd : Reg8) (rs : Reg8) (s : State) (cfg : Config := params) : Host.Outcome State Fault Refusal :=
  complete (cfg.mcycles (.ldRR rd rs) false) (s.writeR8 rd (s.readR8 rs))

/-- `LD r,n8` (R122). -/
def execLdRN8 (rd : Reg8) (n : Byte) (s : State) (cfg : Config := params) : Host.Outcome State Fault Refusal :=
  complete (cfg.mcycles (.ldRN8 rd n) false) (s.writeR8 rd n)

/-- `LD r,(HL)` (R123). -/
def execLdRHl (rd : Reg8) (s : State) (cfg : Config := params) : Host.Outcome State Fault Refusal :=
  complete (cfg.mcycles (.ldRHl rd) false) (s.writeR8 rd s.atHl)

/-- `LD (HL),r` (R124). -/
def execLdHlR (rs : Reg8) (s : State) (cfg : Config := params) : Host.Outcome State Fault Refusal :=
  complete (cfg.mcycles (.ldHlR rs) false) (s.storeAtHl (s.readR8 rs) cfg)

/-- `LD (HL),n8` (R125). -/
def execLdHlN8 (n : Byte) (s : State) (cfg : Config := params) : Host.Outcome State Fault Refusal :=
  complete (cfg.mcycles (.ldHlN8 n) false) (s.storeAtHl n cfg)

/-- `LD A,(BC)` (R126). -/
def execLdABc (s : State) (cfg : Config := params) : Host.Outcome State Fault Refusal :=
  complete (cfg.mcycles .ldABc false) (s.setA (s.readByte s.bc))

/-- `LD A,(DE)` (R127). -/
def execLdADe (s : State) (cfg : Config := params) : Host.Outcome State Fault Refusal :=
  complete (cfg.mcycles .ldADe false) (s.setA (s.readByte s.de))

/-- `LD (BC),A` (R128). -/
def execLdBcA (s : State) (cfg : Config := params) : Host.Outcome State Fault Refusal :=
  complete (cfg.mcycles .ldBcA false) (s.writeByte s.bc s.a cfg)

/-- `LD (DE),A` (R129). -/
def execLdDeA (s : State) (cfg : Config := params) : Host.Outcome State Fault Refusal :=
  complete (cfg.mcycles .ldDeA false) (s.writeByte s.de s.a cfg)

/-- `LD (HL+),A` (R130). -/
def execLdHliA (s : State) (cfg : Config := params) : Host.Outcome State Fault Refusal :=
  complete (cfg.mcycles .ldHliA false) ((s.storeAtHl s.a cfg).setHl (s.hl + 1))

/-- `LD (HL-),A` (R131). -/
def execLdHldA (s : State) (cfg : Config := params) : Host.Outcome State Fault Refusal :=
  complete (cfg.mcycles .ldHldA false) ((s.storeAtHl s.a cfg).setHl (s.hl - 1))

/-- `LD A,(HL+)` (R132). -/
def execLdAHli (s : State) (cfg : Config := params) : Host.Outcome State Fault Refusal :=
  complete (cfg.mcycles .ldAHli false) ((s.setA s.atHl).setHl (s.hl + 1))

/-- `LD A,(HL-)` (R133). -/
def execLdAHld (s : State) (cfg : Config := params) : Host.Outcome State Fault Refusal :=
  complete (cfg.mcycles .ldAHld false) ((s.setA s.atHl).setHl (s.hl - 1))

/-- `LD (a16),A` (R134). -/
def execLdA16A (a : Word) (s : State) (cfg : Config := params) : Host.Outcome State Fault Refusal :=
  complete (cfg.mcycles (.ldA16A a) false) (s.writeByte a s.a cfg)

/-- `LD A,(a16)` (R135). -/
def execLdAA16 (a : Word) (s : State) (cfg : Config := params) : Host.Outcome State Fault Refusal :=
  complete (cfg.mcycles (.ldAA16 a) false) (s.setA (s.readByte a))

/-- `LDH (a8),A` (R136). -/
def execLdhA8A (o : Byte) (s : State) (cfg : Config := params) : Host.Outcome State Fault Refusal :=
  complete (cfg.mcycles (.ldhA8A o) false) (s.writeByte (highPage o cfg) s.a cfg)

/-- `LDH A,(a8)` (R137). -/
def execLdhAA8 (o : Byte) (s : State) (cfg : Config := params) : Host.Outcome State Fault Refusal :=
  complete (cfg.mcycles (.ldhAA8 o) false) (s.setA (s.readByte (highPage o cfg)))

/-- `LD (C),A` (R138). -/
def execLdCA (s : State) (cfg : Config := params) : Host.Outcome State Fault Refusal :=
  complete (cfg.mcycles .ldCA false) (s.writeByte (highPage s.c cfg) s.a cfg)

/-- `LD A,(C)` (R139). -/
def execLdAC (s : State) (cfg : Config := params) : Host.Outcome State Fault Refusal :=
  complete (cfg.mcycles .ldAC false) (s.setA (s.readByte (highPage s.c cfg)))

/-- `LD rr,n16` (R140). -/
def execLdRrN16 (p : Reg16) (n : Word) (s : State) (cfg : Config := params) : Host.Outcome State Fault Refusal :=
  complete (cfg.mcycles (.ldRrN16 p n) false) (s.writeR16 p n)

/-- `LD SP,HL` (R141). -/
def execLdSpHl (s : State) (cfg : Config := params) : Host.Outcome State Fault Refusal :=
  complete (cfg.mcycles .ldSpHl false) (s.setSp s.hl)

/-- `LD HL,SP+e8` (R142). -/
def execLdHlSpE8 (e : Byte) (s : State) (cfg : Config := params) : Host.Outcome State Fault Refusal :=
  complete (cfg.mcycles (.ldHlSpE8 e) false) ((s.setHl (spaddWord s.sp e)).writeFlags (spaddFlags s.sp e))

/-- `LD (a16),SP` (R146). -/
def execLdA16Sp (a : Word) (s : State) (cfg : Config := params) : Host.Outcome State Fault Refusal :=
  complete (cfg.mcycles (.ldA16Sp a) false) (s.writeWord a s.sp cfg)

end Sys2Proof.Machine
end

