-- ==== Sys2Proof/Machine/Logic.lean ====
section
/-! DEFINITION. The meanings of logic, compare, complement and the carry instructions (43_logic.md R195 to R209). -/

namespace Sys2Proof.Machine

/-- `A <- x; F <- {..}` of AND, XOR and OR (R195, R198, R201). -/
def State.accumulateLogic (s : State) (x : Alu) : State := (s.setA x.val).assignF x.flags

/-- `AND r` (R195). -/
def execAndR (rs : Reg8) (s : State) (cfg : Config := params) : Host.Outcome State Fault Refusal :=
  complete (cfg.mcycles (.andR rs) false) (s.accumulateLogic (and8 s.a (s.readR8 rs)))

/-- `AND (HL)` (R196). -/
def execAndHl (s : State) (cfg : Config := params) : Host.Outcome State Fault Refusal :=
  complete (cfg.mcycles .andHl false) (s.accumulateLogic (and8 s.a s.atHl))

/-- `AND n8` (R197). -/
def execAndN8 (n : Byte) (s : State) (cfg : Config := params) : Host.Outcome State Fault Refusal :=
  complete (cfg.mcycles (.andN8 n) false) (s.accumulateLogic (and8 s.a n))

/-- `XOR r` (R198). -/
def execXorR (rs : Reg8) (s : State) (cfg : Config := params) : Host.Outcome State Fault Refusal :=
  complete (cfg.mcycles (.xorR rs) false) (s.accumulateLogic (xor8 s.a (s.readR8 rs)))

/-- `XOR (HL)` (R199). -/
def execXorHl (s : State) (cfg : Config := params) : Host.Outcome State Fault Refusal :=
  complete (cfg.mcycles .xorHl false) (s.accumulateLogic (xor8 s.a s.atHl))

/-- `XOR n8` (R200). -/
def execXorN8 (n : Byte) (s : State) (cfg : Config := params) : Host.Outcome State Fault Refusal :=
  complete (cfg.mcycles (.xorN8 n) false) (s.accumulateLogic (xor8 s.a n))

/-- `OR r` (R201). -/
def execOrR (rs : Reg8) (s : State) (cfg : Config := params) : Host.Outcome State Fault Refusal :=
  complete (cfg.mcycles (.orR rs) false) (s.accumulateLogic (or8 s.a (s.readR8 rs)))

/-- `OR (HL)` (R202). -/
def execOrHl (s : State) (cfg : Config := params) : Host.Outcome State Fault Refusal :=
  complete (cfg.mcycles .orHl false) (s.accumulateLogic (or8 s.a s.atHl))

/-- `OR n8` (R203). -/
def execOrN8 (n : Byte) (s : State) (cfg : Config := params) : Host.Outcome State Fault Refusal :=
  complete (cfg.mcycles (.orN8 n) false) (s.accumulateLogic (or8 s.a n))

/-- `CP r` (R204). -/
def execCpR (rs : Reg8) (s : State) (cfg : Config := params) : Host.Outcome State Fault Refusal :=
  complete (cfg.mcycles (.cpR rs) false) (s.writeFlags (sub8 s.a (s.readR8 rs) false).flags)

/-- `CP (HL)` (R205). -/
def execCpHl (s : State) (cfg : Config := params) : Host.Outcome State Fault Refusal :=
  complete (cfg.mcycles .cpHl false) (s.writeFlags (sub8 s.a s.atHl false).flags)

/-- `CP n8` (R206). -/
def execCpN8 (n : Byte) (s : State) (cfg : Config := params) : Host.Outcome State Fault Refusal :=
  complete (cfg.mcycles (.cpN8 n) false) (s.writeFlags (sub8 s.a n false).flags)

/-- `CPL` (R207). -/
def execCpl (s : State) (cfg : Config := params) : Host.Outcome State Fault Refusal :=
  complete (cfg.mcycles .cpl false) ((s.setA (~~~s.a)).writeFlags ⟨s.flagZ, true, true, s.flagC⟩)

/-- `SCF` (R208). -/
def execScf (s : State) (cfg : Config := params) : Host.Outcome State Fault Refusal :=
  complete (cfg.mcycles .scf false) (s.writeFlags ⟨s.flagZ, false, false, true⟩)

/-- `CCF` (R209). -/
def execCcf (s : State) (cfg : Config := params) : Host.Outcome State Fault Refusal :=
  complete (cfg.mcycles .ccf false) (s.writeFlags ⟨s.flagZ, false, false, !s.flagC⟩)

end Sys2Proof.Machine
end

