-- ==== Sys2Proof/Machine/RotateCb.lean ====
section
/-! DEFINITION. The meanings of the rotates of A and of the 0xCB page, and of the prefix (47_rotate_cb.md R250 to R276; R245). -/

namespace Sys2Proof.Machine

/-- A rotated, with the flags of the one-byte forms (R250 to R253). -/
def State.rotateA (s : State) (o : Rotate) : State :=
  (s.setA (o.result s.a s.flagC)).assignF (o.flagsA s.a)

/-- A 0xCB-page rotate or shift of a register (R254). -/
def State.rotateR8 (s : State) (o : Rotate) (r : Reg8) : State :=
  (s.writeR8 r (o.result (s.readR8 r) s.flagC)).assignF (o.flags (s.readR8 r) s.flagC)

/-- A 0xCB-page rotate or shift of the byte at HL, written back through the decoder (R254). -/
def State.rotateAtHl (s : State) (o : Rotate) (cfg : Config := params) : State :=
  (s.storeAtHl (o.result s.atHl s.flagC) cfg).assignF (o.flags s.atHl s.flagC)

/-- `RLCA` (R250). -/
def execRlca (s : State) (cfg : Config := params) : Host.Outcome State Fault Refusal :=
  complete (cfg.mcycles .rlca false) (s.rotateA .rlc)

/-- `RRCA` (R251). -/
def execRrca (s : State) (cfg : Config := params) : Host.Outcome State Fault Refusal :=
  complete (cfg.mcycles .rrca false) (s.rotateA .rrc)

/-- `RLA` (R252). -/
def execRla (s : State) (cfg : Config := params) : Host.Outcome State Fault Refusal :=
  complete (cfg.mcycles .rla false) (s.rotateA .rl)

/-- `RRA` (R253). -/
def execRra (s : State) (cfg : Config := params) : Host.Outcome State Fault Refusal :=
  complete (cfg.mcycles .rra false) (s.rotateA .rr)

/-- `RLC r` (R255). -/
def execRlcR (rs : Reg8) (s : State) (cfg : Config := params) : Host.Outcome State Fault Refusal :=
  complete (cfg.mcycles (.rlcR rs) false) (s.rotateR8 .rlc rs)

/-- `RLC (HL)` (R256). -/
def execRlcHl (s : State) (cfg : Config := params) : Host.Outcome State Fault Refusal :=
  complete (cfg.mcycles .rlcHl false) (s.rotateAtHl .rlc cfg)

/-- `RRC r` (R257). -/
def execRrcR (rs : Reg8) (s : State) (cfg : Config := params) : Host.Outcome State Fault Refusal :=
  complete (cfg.mcycles (.rrcR rs) false) (s.rotateR8 .rrc rs)

/-- `RRC (HL)` (R258). -/
def execRrcHl (s : State) (cfg : Config := params) : Host.Outcome State Fault Refusal :=
  complete (cfg.mcycles .rrcHl false) (s.rotateAtHl .rrc cfg)

/-- `RL r` (R259). -/
def execRlR (rs : Reg8) (s : State) (cfg : Config := params) : Host.Outcome State Fault Refusal :=
  complete (cfg.mcycles (.rlR rs) false) (s.rotateR8 .rl rs)

/-- `RL (HL)` (R260). -/
def execRlHl (s : State) (cfg : Config := params) : Host.Outcome State Fault Refusal :=
  complete (cfg.mcycles .rlHl false) (s.rotateAtHl .rl cfg)

/-- `RR r` (R261). -/
def execRrR (rs : Reg8) (s : State) (cfg : Config := params) : Host.Outcome State Fault Refusal :=
  complete (cfg.mcycles (.rrR rs) false) (s.rotateR8 .rr rs)

/-- `RR (HL)` (R262). -/
def execRrHl (s : State) (cfg : Config := params) : Host.Outcome State Fault Refusal :=
  complete (cfg.mcycles .rrHl false) (s.rotateAtHl .rr cfg)

/-- `SLA r` (R263). -/
def execSlaR (rs : Reg8) (s : State) (cfg : Config := params) : Host.Outcome State Fault Refusal :=
  complete (cfg.mcycles (.slaR rs) false) (s.rotateR8 .sla rs)

/-- `SLA (HL)` (R264). -/
def execSlaHl (s : State) (cfg : Config := params) : Host.Outcome State Fault Refusal :=
  complete (cfg.mcycles .slaHl false) (s.rotateAtHl .sla cfg)

/-- `SRA r` (R265). -/
def execSraR (rs : Reg8) (s : State) (cfg : Config := params) : Host.Outcome State Fault Refusal :=
  complete (cfg.mcycles (.sraR rs) false) (s.rotateR8 .sra rs)

/-- `SRA (HL)` (R266). -/
def execSraHl (s : State) (cfg : Config := params) : Host.Outcome State Fault Refusal :=
  complete (cfg.mcycles .sraHl false) (s.rotateAtHl .sra cfg)

/-- `SWAP r` (R267). -/
def execSwapR (rs : Reg8) (s : State) (cfg : Config := params) : Host.Outcome State Fault Refusal :=
  complete (cfg.mcycles (.swapR rs) false) (s.rotateR8 .swap rs)

/-- `SWAP (HL)` (R268). -/
def execSwapHl (s : State) (cfg : Config := params) : Host.Outcome State Fault Refusal :=
  complete (cfg.mcycles .swapHl false) (s.rotateAtHl .swap cfg)

/-- `SRL r` (R269). -/
def execSrlR (rs : Reg8) (s : State) (cfg : Config := params) : Host.Outcome State Fault Refusal :=
  complete (cfg.mcycles (.srlR rs) false) (s.rotateR8 .srl rs)

/-- `SRL (HL)` (R270). -/
def execSrlHl (s : State) (cfg : Config := params) : Host.Outcome State Fault Refusal :=
  complete (cfg.mcycles .srlHl false) (s.rotateAtHl .srl cfg)

/-- `BIT b,r` (R271). -/
def execBitBR (b : Nat) (rs : Reg8) (s : State) (cfg : Config := params) : Host.Outcome State Fault Refusal :=
  complete (cfg.mcycles (.bitBR b rs) false) (s.writeFlags (bitFlags (s.readR8 rs) b s.flagC))

/-- `BIT b,(HL)` (R272). -/
def execBitBHl (b : Nat) (s : State) (cfg : Config := params) : Host.Outcome State Fault Refusal :=
  complete (cfg.mcycles (.bitBHl b) false) (s.writeFlags (bitFlags s.atHl b s.flagC))

/-- `RES b,r` (R273). -/
def execResBR (b : Nat) (rs : Reg8) (s : State) (cfg : Config := params) : Host.Outcome State Fault Refusal :=
  complete (cfg.mcycles (.resBR b rs) false) (s.writeR8 rs (clearBit (s.readR8 rs) b))

/-- `RES b,(HL)` (R274). -/
def execResBHl (b : Nat) (s : State) (cfg : Config := params) : Host.Outcome State Fault Refusal :=
  complete (cfg.mcycles (.resBHl b) false) (s.storeAtHl (clearBit s.atHl b) cfg)

/-- `SET b,r` (R275). -/
def execSetBR (b : Nat) (rs : Reg8) (s : State) (cfg : Config := params) : Host.Outcome State Fault Refusal :=
  complete (cfg.mcycles (.setBR b rs) false) (s.writeR8 rs (setBit (s.readR8 rs) b))

/-- `SET b,(HL)` (R276). -/
def execSetBHl (b : Nat) (s : State) (cfg : Config := params) : Host.Outcome State Fault Refusal :=
  complete (cfg.mcycles (.setBHl b) false) (s.storeAtHl (setBit s.atHl b) cfg)

/-- The rotate or shift `ooo` on a register, by the field values of R98. -/
def execRotateR (o : Nat) (r : Reg8) (s : State) (cfg : Config := params) : Host.Outcome State Fault Refusal :=
  match o with
  | 0 => execRlcR r s cfg
  | 1 => execRrcR r s cfg
  | 2 => execRlR r s cfg
  | 3 => execRrR r s cfg
  | 4 => execSlaR r s cfg
  | 5 => execSraR r s cfg
  | 6 => execSwapR r s cfg
  | _ => execSrlR r s cfg

/-- The rotate or shift `ooo` on the byte at HL, by the field values of R98. -/
def execRotateHl (o : Nat) (s : State) (cfg : Config := params) : Host.Outcome State Fault Refusal :=
  match o with
  | 0 => execRlcHl s cfg
  | 1 => execRrcHl s cfg
  | 2 => execRlHl s cfg
  | 3 => execRrHl s cfg
  | 4 => execSlaHl s cfg
  | 5 => execSraHl s cfg
  | 6 => execSwapHl s cfg
  | _ => execSrlHl s cfg

/-- `PREFIX CB` with its second byte (R245): the instruction that `op2` selects in the 0xCB page (R101), with its flags and
cycles; the prefix has no effect of its own (log 5). -/
def execPrefixCb (op2 : Byte) (s : State) (cfg : Config := params) : Host.Outcome State Fault Refusal :=
  match fieldX op2, regOf (fieldZ op2) with
  | 0, some r => execRotateR (fieldY op2) r s cfg
  | 0, none => execRotateHl (fieldY op2) s cfg
  | 1, some r => execBitBR (fieldY op2) r s cfg
  | 1, none => execBitBHl (fieldY op2) s cfg
  | 2, some r => execResBR (fieldY op2) r s cfg
  | 2, none => execResBHl (fieldY op2) s cfg
  | _, some r => execSetBR (fieldY op2) r s cfg
  | _, none => execSetBHl (fieldY op2) s cfg

end Sys2Proof.Machine
end

