-- ==== Sys2Proof/Machine/Stack.lean ====
section
/-! DEFINITION. The meanings of call, return, restart, push and pop (45_call_ret_stack.md R222 to R231). -/

namespace Sys2Proof.Machine

/-- `CALL a16` (R222). -/
def execCallA16 (a : Word) (s : State) (cfg : Config := params) : Host.Outcome State Fault Refusal :=
  complete (cfg.mcycles (.callA16 a) false) (s.callTo a cfg)

/-- `CALL cc,a16` (R223). -/
def execCallCcA16 (cc : Cond) (a : Word) (s : State) (cfg : Config := params) : Host.Outcome State Fault Refusal :=
  if s.cond cc then
    complete (cfg.mcycles (.callCcA16 cc a) true) (s.callTo a cfg)
  else
    complete (cfg.mcycles (.callCcA16 cc a) false) s

/-- `RET` (R224). -/
def execRet (s : State) (cfg : Config := params) : Host.Outcome State Fault Refusal :=
  complete (cfg.mcycles .ret false) s.popPc

/-- `RET cc` (R225). -/
def execRetCc (cc : Cond) (s : State) (cfg : Config := params) : Host.Outcome State Fault Refusal :=
  if s.cond cc then
    complete (cfg.mcycles (.retCc cc) true) s.popPc
  else
    complete (cfg.mcycles (.retCc cc) false) s

/-- `RETI` (R226). -/
def execReti (s : State) (cfg : Config := params) : Host.Outcome State Fault Refusal :=
  complete (cfg.mcycles .reti false) s.returnFromInterrupt

/-- `RST t` (R227). -/
def execRst (t : Nat) (s : State) (cfg : Config := params) : Host.Outcome State Fault Refusal :=
  complete (cfg.mcycles (.rst t) false) (s.callTo (rstTarget t) cfg)

/-- `PUSH rr` (R228). -/
def execPushRr (p : StackPair) (s : State) (cfg : Config := params) : Host.Outcome State Fault Refusal :=
  complete (cfg.mcycles (.pushRr p) false) (s.push16 (s.readStackPair p) cfg)

/-- `PUSH AF` (R229). -/
def execPushAf (s : State) (cfg : Config := params) : Host.Outcome State Fault Refusal :=
  complete (cfg.mcycles .pushAf false) (s.push16 s.af cfg)

/-- `POP rr` (R230). -/
def execPopRr (p : StackPair) (s : State) (cfg : Config := params) : Host.Outcome State Fault Refusal :=
  complete (cfg.mcycles (.popRr p) false) (s.popped.writeStackPair p s.popWord)

/-- `POP AF` (R231). -/
def execPopAf (s : State) (cfg : Config := params) : Host.Outcome State Fault Refusal :=
  complete (cfg.mcycles .popAf false) (s.popped.setWord .af (s.popWord &&& 0xFFF0))

end Sys2Proof.Machine
end

