-- ==== Sys2Proof/Machine/System.lean ====
section
/-! DEFINITION. The meanings of NOP, DI, EI, HALT, STOP and the illegal bytes (46_system.md R240 to R246). The prefix is in RotateCb.lean. -/

namespace Sys2Proof.Machine

/-- `NOP` (R240). -/
def execNop (s : State) (cfg : Config := params) : Host.Outcome State Fault Refusal :=
  complete (cfg.mcycles .nop false) s

/-- `DI` (R241). -/
def execDi (s : State) (cfg : Config := params) : Host.Outcome State Fault Refusal :=
  complete (cfg.mcycles .di false) (s.setIme false)

/-- `EI` (R242). -/
def execEi (s : State) (cfg : Config := params) : Host.Outcome State Fault Refusal :=
  complete (cfg.mcycles .ei false) (s.setIme true)

/-- `HALT` (R243). -/
def execHalt (s : State) (cfg : Config := params) : Host.Outcome State Fault Refusal :=
  complete (cfg.mcycles .halt false) (s.setHalted true)

/-- `STOP` (R244). -/
def execStop (s : State) : Host.Outcome State Fault Refusal :=
  .next (s.raiseFatal .unimplemented 0x10)

/-- `ILLEGAL_D3` (R246). -/
def execIllegalD3 (s : State) : Host.Outcome State Fault Refusal :=
  .next (s.raiseFatal .illegal 0xD3)

/-- `ILLEGAL_DB` (R246). -/
def execIllegalDB (s : State) : Host.Outcome State Fault Refusal :=
  .next (s.raiseFatal .illegal 0xDB)

/-- `ILLEGAL_DD` (R246). -/
def execIllegalDD (s : State) : Host.Outcome State Fault Refusal :=
  .next (s.raiseFatal .illegal 0xDD)

/-- `ILLEGAL_E3` (R246). -/
def execIllegalE3 (s : State) : Host.Outcome State Fault Refusal :=
  .next (s.raiseFatal .illegal 0xE3)

/-- `ILLEGAL_E4` (R246). -/
def execIllegalE4 (s : State) : Host.Outcome State Fault Refusal :=
  .next (s.raiseFatal .illegal 0xE4)

/-- `ILLEGAL_EB` (R246). -/
def execIllegalEB (s : State) : Host.Outcome State Fault Refusal :=
  .next (s.raiseFatal .illegal 0xEB)

/-- `ILLEGAL_EC` (R246). -/
def execIllegalEC (s : State) : Host.Outcome State Fault Refusal :=
  .next (s.raiseFatal .illegal 0xEC)

/-- `ILLEGAL_ED` (R246). -/
def execIllegalED (s : State) : Host.Outcome State Fault Refusal :=
  .next (s.raiseFatal .illegal 0xED)

/-- `ILLEGAL_F4` (R246). -/
def execIllegalF4 (s : State) : Host.Outcome State Fault Refusal :=
  .next (s.raiseFatal .illegal 0xF4)

/-- `ILLEGAL_FC` (R246). -/
def execIllegalFC (s : State) : Host.Outcome State Fault Refusal :=
  .next (s.raiseFatal .illegal 0xFC)

/-- `ILLEGAL_FD` (R246). -/
def execIllegalFD (s : State) : Host.Outcome State Fault Refusal :=
  .next (s.raiseFatal .illegal 0xFD)

end Sys2Proof.Machine
end

