-- ==== Sys2Proof/Machine/Dispatch.lean ====
section
/-! DEFINITION. One arm per constructor of Instr, each one call of its meaning. -/

namespace Sys2Proof.Machine

def exec (i : Instr) (s : State) : Host.Outcome State Fault Refusal :=
  match i with
  | .ldRR rd rs => Sys2Proof.Machine.execLdRR rd rs s
  | .ldRN8 rd n => Sys2Proof.Machine.execLdRN8 rd n s
  | .ldRHl rd => Sys2Proof.Machine.execLdRHl rd s
  | .ldHlR rs => Sys2Proof.Machine.execLdHlR rs s
  | .ldHlN8 n => Sys2Proof.Machine.execLdHlN8 n s
  | .ldABc => Sys2Proof.Machine.execLdABc s
  | .ldADe => Sys2Proof.Machine.execLdADe s
  | .ldBcA => Sys2Proof.Machine.execLdBcA s
  | .ldDeA => Sys2Proof.Machine.execLdDeA s
  | .ldHliA => Sys2Proof.Machine.execLdHliA s
  | .ldHldA => Sys2Proof.Machine.execLdHldA s
  | .ldAHli => Sys2Proof.Machine.execLdAHli s
  | .ldAHld => Sys2Proof.Machine.execLdAHld s
  | .ldA16A a => Sys2Proof.Machine.execLdA16A a s
  | .ldAA16 a => Sys2Proof.Machine.execLdAA16 a s
  | .ldhA8A o => Sys2Proof.Machine.execLdhA8A o s
  | .ldhAA8 o => Sys2Proof.Machine.execLdhAA8 o s
  | .ldCA => Sys2Proof.Machine.execLdCA s
  | .ldAC => Sys2Proof.Machine.execLdAC s
  | .ldRrN16 p n => Sys2Proof.Machine.execLdRrN16 p n s
  | .ldSpHl => Sys2Proof.Machine.execLdSpHl s
  | .ldHlSpE8 e => Sys2Proof.Machine.execLdHlSpE8 e s
  | .ldA16Sp a => Sys2Proof.Machine.execLdA16Sp a s
  | .incR rd => Sys2Proof.Machine.execIncR rd s
  | .incHl => Sys2Proof.Machine.execIncHl s
  | .decR rd => Sys2Proof.Machine.execDecR rd s
  | .decHl => Sys2Proof.Machine.execDecHl s
  | .incRr p => Sys2Proof.Machine.execIncRr p s
  | .decRr p => Sys2Proof.Machine.execDecRr p s
  | .addAR rs => Sys2Proof.Machine.execAddAR rs s
  | .addAHl => Sys2Proof.Machine.execAddAHl s
  | .addAN8 n => Sys2Proof.Machine.execAddAN8 n s
  | .adcAR rs => Sys2Proof.Machine.execAdcAR rs s
  | .adcAHl => Sys2Proof.Machine.execAdcAHl s
  | .adcAN8 n => Sys2Proof.Machine.execAdcAN8 n s
  | .subR rs => Sys2Proof.Machine.execSubR rs s
  | .subHl => Sys2Proof.Machine.execSubHl s
  | .subN8 n => Sys2Proof.Machine.execSubN8 n s
  | .sbcAR rs => Sys2Proof.Machine.execSbcAR rs s
  | .sbcAHl => Sys2Proof.Machine.execSbcAHl s
  | .sbcAN8 n => Sys2Proof.Machine.execSbcAN8 n s
  | .andR rs => Sys2Proof.Machine.execAndR rs s
  | .andHl => Sys2Proof.Machine.execAndHl s
  | .andN8 n => Sys2Proof.Machine.execAndN8 n s
  | .xorR rs => Sys2Proof.Machine.execXorR rs s
  | .xorHl => Sys2Proof.Machine.execXorHl s
  | .xorN8 n => Sys2Proof.Machine.execXorN8 n s
  | .orR rs => Sys2Proof.Machine.execOrR rs s
  | .orHl => Sys2Proof.Machine.execOrHl s
  | .orN8 n => Sys2Proof.Machine.execOrN8 n s
  | .cpR rs => Sys2Proof.Machine.execCpR rs s
  | .cpHl => Sys2Proof.Machine.execCpHl s
  | .cpN8 n => Sys2Proof.Machine.execCpN8 n s
  | .addHlRr p => Sys2Proof.Machine.execAddHlRr p s
  | .addSpE8 e => Sys2Proof.Machine.execAddSpE8 e s
  | .daa => Sys2Proof.Machine.execDaa s
  | .cpl => Sys2Proof.Machine.execCpl s
  | .scf => Sys2Proof.Machine.execScf s
  | .ccf => Sys2Proof.Machine.execCcf s
  | .jrE8 e => Sys2Proof.Machine.execJrE8 e s
  | .jrCcE8 cc e => Sys2Proof.Machine.execJrCcE8 cc e s
  | .jpA16 a => Sys2Proof.Machine.execJpA16 a s
  | .jpCcA16 cc a => Sys2Proof.Machine.execJpCcA16 cc a s
  | .jpHl => Sys2Proof.Machine.execJpHl s
  | .callA16 a => Sys2Proof.Machine.execCallA16 a s
  | .callCcA16 cc a => Sys2Proof.Machine.execCallCcA16 cc a s
  | .ret => Sys2Proof.Machine.execRet s
  | .retCc cc => Sys2Proof.Machine.execRetCc cc s
  | .reti => Sys2Proof.Machine.execReti s
  | .rst t => Sys2Proof.Machine.execRst t s
  | .pushRr p => Sys2Proof.Machine.execPushRr p s
  | .pushAf => Sys2Proof.Machine.execPushAf s
  | .popRr p => Sys2Proof.Machine.execPopRr p s
  | .popAf => Sys2Proof.Machine.execPopAf s
  | .nop => Sys2Proof.Machine.execNop s
  | .di => Sys2Proof.Machine.execDi s
  | .ei => Sys2Proof.Machine.execEi s
  | .halt => Sys2Proof.Machine.execHalt s
  | .stop => Sys2Proof.Machine.execStop s
  | .prefixCb op2 => Sys2Proof.Machine.execPrefixCb op2 s
  | .illegalD3 => Sys2Proof.Machine.execIllegalD3 s
  | .illegalDB => Sys2Proof.Machine.execIllegalDB s
  | .illegalDD => Sys2Proof.Machine.execIllegalDD s
  | .illegalE3 => Sys2Proof.Machine.execIllegalE3 s
  | .illegalE4 => Sys2Proof.Machine.execIllegalE4 s
  | .illegalEB => Sys2Proof.Machine.execIllegalEB s
  | .illegalEC => Sys2Proof.Machine.execIllegalEC s
  | .illegalED => Sys2Proof.Machine.execIllegalED s
  | .illegalF4 => Sys2Proof.Machine.execIllegalF4 s
  | .illegalFC => Sys2Proof.Machine.execIllegalFC s
  | .illegalFD => Sys2Proof.Machine.execIllegalFD s
  | .rlca => Sys2Proof.Machine.execRlca s
  | .rrca => Sys2Proof.Machine.execRrca s
  | .rla => Sys2Proof.Machine.execRla s
  | .rra => Sys2Proof.Machine.execRra s
  | .rlcR rs => Sys2Proof.Machine.execRlcR rs s
  | .rlcHl => Sys2Proof.Machine.execRlcHl s
  | .rrcR rs => Sys2Proof.Machine.execRrcR rs s
  | .rrcHl => Sys2Proof.Machine.execRrcHl s
  | .rlR rs => Sys2Proof.Machine.execRlR rs s
  | .rlHl => Sys2Proof.Machine.execRlHl s
  | .rrR rs => Sys2Proof.Machine.execRrR rs s
  | .rrHl => Sys2Proof.Machine.execRrHl s
  | .slaR rs => Sys2Proof.Machine.execSlaR rs s
  | .slaHl => Sys2Proof.Machine.execSlaHl s
  | .sraR rs => Sys2Proof.Machine.execSraR rs s
  | .sraHl => Sys2Proof.Machine.execSraHl s
  | .swapR rs => Sys2Proof.Machine.execSwapR rs s
  | .swapHl => Sys2Proof.Machine.execSwapHl s
  | .srlR rs => Sys2Proof.Machine.execSrlR rs s
  | .srlHl => Sys2Proof.Machine.execSrlHl s
  | .bitBR b rs => Sys2Proof.Machine.execBitBR b rs s
  | .bitBHl b => Sys2Proof.Machine.execBitBHl b s
  | .resBR b rs => Sys2Proof.Machine.execResBR b rs s
  | .resBHl b => Sys2Proof.Machine.execResBHl b s
  | .setBR b rs => Sys2Proof.Machine.execSetBR b rs s
  | .setBHl b => Sys2Proof.Machine.execSetBHl b s

end Sys2Proof.Machine
end

