-- ==== Sys2Proof/Machine/Timer.lean ====
section
/-! DEFINITION. The divider and the timer (60_exceptions.md R322 to R328), and the step: what it does after its instruction,
and when it idles (R300). -/

namespace Sys2Proof.Machine

/-- `n` increments of DIV, each modulo 256 (R324). -/
def State.divTicks (s : State) (n : Nat) (cfg : Config := params) : State :=
  match n with
  | 0 => s
  | k + 1 => (s.poke cfg.divAddr (s.readByte cfg.divAddr + 1)).divTicks k cfg

/-- `UpdateDivider(t)`: the drain loop runs once per full period in the accumulator (R324; log 9). -/
def State.updateDivider (s : State) (t : Nat) (cfg : Config := params) : State :=
  { s.divTicks ((s.divAcc + t) / cfg.divPeriod) cfg with divAcc := (s.divAcc + t) % cfg.divPeriod }

/-- One increment of TIMA: past 0xFF it reloads from TMA and requests the timer interrupt (R325). -/
def State.timaTick (s : State) (cfg : Config := params) : State :=
  if s.readByte cfg.timaAddr = 0xFF then
    (s.poke cfg.timaAddr (s.readByte cfg.tmaAddr)).requestInterrupt cfg.timerIntBit cfg
  else s.poke cfg.timaAddr (s.readByte cfg.timaAddr + 1)

/-- `n` increments of TIMA (R325, R327). -/
def State.timaTicks (s : State) (n : Nat) (cfg : Config := params) : State :=
  match n with
  | 0 => s
  | k + 1 => (s.timaTick cfg).timaTicks k cfg

/-- The timer is enabled: `TAC[2] = 1` (R43). -/
def State.timerOn (s : State) (cfg : Config := params) : Bool := bitAt (s.readByte cfg.tacAddr) cfg.tacEnableBit

/-- The period `TAC[1:0]` selects (R43). -/
def State.timerPeriod (s : State) (cfg : Config := params) : Nat :=
  cfg.timerPeriod ((s.readByte cfg.tacAddr).toNat % 4)

/-- `UpdateTima(t)` (R325): nothing while disabled (R326), else the drain loop, once per full period (log 9). -/
def State.updateTima (s : State) (t : Nat) (cfg : Config := params) : State :=
  if s.timerOn cfg then
    { s.timaTicks ((s.timaAcc + t) / s.timerPeriod cfg) cfg with timaAcc := (s.timaAcc + t) % s.timerPeriod cfg }
  else s

/-- `UpdateTimer(t)` (R322). -/
def State.updateTimer (s : State) (t : Nat) (cfg : Config := params) : State := (s.updateDivider t cfg).updateTima t cfg

/-- The end of a step that reported `m` M-cycles: `UpdateTimer(4 * m)`, then `HandleInterrupts()`; after a fatal error
neither runs (R300, R304). -/
def State.finishStep (s : State) (cfg : Config := params) : State :=
  match s.fatal with
  | some _ => s
  | none => (s.updateTimer (4 * s.elapsed.getD 0) cfg).handleInterrupts cfg

/-- The end of the step on an outcome of the instruction. -/
def closeStep (o : Host.Outcome State Fault Refusal) (cfg : Config := params) : Host.Outcome State Fault Refusal :=
  match o with
  | .next s => .next (s.finishStep cfg)
  | .fault r => .fault r
  | .refused r => .refused r

/-- An idle step while halted: it reports `HALT_IDLE_MCYCLES` and nothing is fetched (R300, R335). -/
def State.idleStep (s : State) (cfg : Config := params) : State := (s.report (some cfg.haltIdleMCycles)).finishStep cfg

/-- The state an instruction runs in: halted cleared, PC past the instruction (R300). -/
def State.ready (s : State) (i : Instr) : State := (s.setHalted false).pastInstr i

/-- One step (R300), `run` the meanings of the instructions: none from a state that holds a fatal record (R305); an idle step
while halted; else the instruction at PC, then, unless it raised the fatal error, the timer update and the interrupt
check. -/
def stepBy (run : Instr → State → Host.Outcome State Fault Refusal) (cfg : Config) (s : State) :
    Host.Outcome State Fault Refusal :=
  match s.fatal with
  | some r => .fault (.fatalState r)
  | none =>
    if s.idles cfg then .next (s.idleStep cfg)
    else closeStep (run s.fetched (s.ready s.fetched)) cfg

end Sys2Proof.Machine
end

