-- ==== Sys2Proof/Machine/Step.lean ====
section
/-! DEFINITION. The machine step (60_exceptions.md R300) and the placing of one instruction where it fetches. -/

namespace Sys2Proof.Machine

/-- One step (R300) of the machine with the parameters' default values (00_scope.md R5, log 13). -/
def step (s : State) : Host.Outcome State Fault Refusal := stepBy exec params s

/-- The instruction of an opcode-table word placed at PC, in a state that fetches: not halted, no fatal record (log 8). -/
def State.withFetchWord (s : State) (nbits w : Nat) : State :=
  { s.placeAtPc (byteOf (w % 2 ^ nbits) 0) (byteOf (w % 2 ^ nbits) 1) (byteOf (w % 2 ^ nbits) 2) with
    halted := false
    fatal := none }

end Sys2Proof.Machine
end

