-- ==== Sys2Proof/Machine/Configured.lean ====
section
/-! DEFINITION. The machine with any values of the parameters of 00_scope.md table P (R5, R354; log 13): `execIn` and `stepIn` are
`exec` and `step` with the record as an argument. -/

namespace Sys2Proof.Machine

/-- `exec` with the parameters `cfg`: the same meanings, each given the record. -/
def execIn (cfg : Config) (i : Instr) (s : State) : Host.Outcome State Fault Refusal :=
  match i with
  | .ldRR rd rs => execLdRR rd rs s cfg
  | .ldRN8 rd n => execLdRN8 rd n s cfg
  | .ldRHl rd => execLdRHl rd s cfg
  | .ldHlR rs => execLdHlR rs s cfg
  | .ldHlN8 n => execLdHlN8 n s cfg
  | .ldABc => execLdABc s cfg
  | .ldADe => execLdADe s cfg
  | .ldBcA => execLdBcA s cfg
  | .ldDeA => execLdDeA s cfg
  | .ldHliA => execLdHliA s cfg
  | .ldHldA => execLdHldA s cfg
  | .ldAHli => execLdAHli s cfg
  | .ldAHld => execLdAHld s cfg
  | .ldA16A a => execLdA16A a s cfg
  | .ldAA16 a => execLdAA16 a s cfg
  | .ldhA8A o => execLdhA8A o s cfg
  | .ldhAA8 o => execLdhAA8 o s cfg
  | .ldCA => execLdCA s cfg
  | .ldAC => execLdAC s cfg
  | .ldRrN16 p n => execLdRrN16 p n s cfg
  | .ldSpHl => execLdSpHl s cfg
  | .ldHlSpE8 e => execLdHlSpE8 e s cfg
  | .ldA16Sp a => execLdA16Sp a s cfg
  | .incR rd => execIncR rd s cfg
  | .incHl => execIncHl s cfg
  | .decR rd => execDecR rd s cfg
  | .decHl => execDecHl s cfg
  | .incRr p => execIncRr p s cfg
  | .decRr p => execDecRr p s cfg
  | .addAR rs => execAddAR rs s cfg
  | .addAHl => execAddAHl s cfg
  | .addAN8 n => execAddAN8 n s cfg
  | .adcAR rs => execAdcAR rs s cfg
  | .adcAHl => execAdcAHl s cfg
  | .adcAN8 n => execAdcAN8 n s cfg
  | .subR rs => execSubR rs s cfg
  | .subHl => execSubHl s cfg
  | .subN8 n => execSubN8 n s cfg
  | .sbcAR rs => execSbcAR rs s cfg
  | .sbcAHl => execSbcAHl s cfg
  | .sbcAN8 n => execSbcAN8 n s cfg
  | .andR rs => execAndR rs s cfg
  | .andHl => execAndHl s cfg
  | .andN8 n => execAndN8 n s cfg
  | .xorR rs => execXorR rs s cfg
  | .xorHl => execXorHl s cfg
  | .xorN8 n => execXorN8 n s cfg
  | .orR rs => execOrR rs s cfg
  | .orHl => execOrHl s cfg
  | .orN8 n => execOrN8 n s cfg
  | .cpR rs => execCpR rs s cfg
  | .cpHl => execCpHl s cfg
  | .cpN8 n => execCpN8 n s cfg
  | .addHlRr p => execAddHlRr p s cfg
  | .addSpE8 e => execAddSpE8 e s cfg
  | .daa => execDaa s cfg
  | .cpl => execCpl s cfg
  | .scf => execScf s cfg
  | .ccf => execCcf s cfg
  | .jrE8 e => execJrE8 e s cfg
  | .jrCcE8 cc e => execJrCcE8 cc e s cfg
  | .jpA16 a => execJpA16 a s cfg
  | .jpCcA16 cc a => execJpCcA16 cc a s cfg
  | .jpHl => execJpHl s cfg
  | .callA16 a => execCallA16 a s cfg
  | .callCcA16 cc a => execCallCcA16 cc a s cfg
  | .ret => execRet s cfg
  | .retCc cc => execRetCc cc s cfg
  | .reti => execReti s cfg
  | .rst t => execRst t s cfg
  | .pushRr p => execPushRr p s cfg
  | .pushAf => execPushAf s cfg
  | .popRr p => execPopRr p s cfg
  | .popAf => execPopAf s cfg
  | .nop => execNop s cfg
  | .di => execDi s cfg
  | .ei => execEi s cfg
  | .halt => execHalt s cfg
  | .stop => execStop s
  | .prefixCb op2 => execPrefixCb op2 s cfg
  | .illegalD3 => execIllegalD3 s
  | .illegalDB => execIllegalDB s
  | .illegalDD => execIllegalDD s
  | .illegalE3 => execIllegalE3 s
  | .illegalE4 => execIllegalE4 s
  | .illegalEB => execIllegalEB s
  | .illegalEC => execIllegalEC s
  | .illegalED => execIllegalED s
  | .illegalF4 => execIllegalF4 s
  | .illegalFC => execIllegalFC s
  | .illegalFD => execIllegalFD s
  | .rlca => execRlca s cfg
  | .rrca => execRrca s cfg
  | .rla => execRla s cfg
  | .rra => execRra s cfg
  | .rlcR rs => execRlcR rs s cfg
  | .rlcHl => execRlcHl s cfg
  | .rrcR rs => execRrcR rs s cfg
  | .rrcHl => execRrcHl s cfg
  | .rlR rs => execRlR rs s cfg
  | .rlHl => execRlHl s cfg
  | .rrR rs => execRrR rs s cfg
  | .rrHl => execRrHl s cfg
  | .slaR rs => execSlaR rs s cfg
  | .slaHl => execSlaHl s cfg
  | .sraR rs => execSraR rs s cfg
  | .sraHl => execSraHl s cfg
  | .swapR rs => execSwapR rs s cfg
  | .swapHl => execSwapHl s cfg
  | .srlR rs => execSrlR rs s cfg
  | .srlHl => execSrlHl s cfg
  | .bitBR b rs => execBitBR b rs s cfg
  | .bitBHl b => execBitBHl b s cfg
  | .resBR b rs => execResBR b rs s cfg
  | .resBHl b => execResBHl b s cfg
  | .setBR b rs => execSetBR b rs s cfg
  | .setBHl b => execSetBHl b s cfg

/-- One step (60_exceptions.md R300) with the parameters `cfg`. -/
def stepIn (cfg : Config) (s : State) : Host.Outcome State Fault Refusal := stepBy (execIn cfg) cfg s

end Sys2Proof.Machine
end

