-- ==== Sys2Proof/Machine/Launch.lean ====
section
/-! DEFINITION. What the host does between steps (00_scope.md R11; 70_reset_and_hazards.md R350, R357 to R362): reset with an
image, stores and reads, interrupt requests; and the loader's header and checksum, which no step uses (R359). -/

namespace Sys2Proof.Machine

/-- A byte image laid out from address `a` on, straight into the array (R358). -/
def Memory.fill : Memory → Nat → List Byte → Memory
  | m, _, [] => m
  | m, a, v :: rest => Memory.fill (m.write a v) (a + 1) rest

/-- Cells placed one by one; a key outside the 64 KiB is no cell and is ignored (log 14). -/
def Memory.place : Memory → List Host.Cell → Memory
  | m, [] => m
  | m, (k, v) :: rest => Memory.place (if k < 65536 then m.write k v else m) rest

/-- The six registers that table RV sets to 0x00 (R52). -/
def zeroedAddrs (cfg : Config := params) : List Word :=
  [cfg.divAddr, cfg.timaAddr, cfg.tmaAddr, cfg.tacAddr, cfg.ifAddr, cfg.ieAddr]

/-- The memory of table RV (R52, R350, R353, R358): `INIT_MEM` (given by its cells), the six registers zeroed, the first
0x8000 bytes of the image at their offsets. -/
def launchMemory (image : List Byte) (initMem : List Host.Cell) (cfg : Config := params) : Memory :=
  Memory.fill (Memory.place (Memory.place [] initMem) ((zeroedAddrs cfg).map (fun a => (a.toNat, 0)))) 0
    (image.take cfg.romHi.toNat)

/-- `Reset` with the launch record: a cartridge image, any `INIT_MEM`, any values of the parameters (R350, R354). -/
def State.launch (image : List Byte) (initMem : List Host.Cell) (cfg : Config := params) : State :=
  { State.resetIn cfg with mem := launchMemory image initMem cfg }

/-- The moves of the host between two steps (R11, R362). `HostRead` changes nothing and is `State.hostRead`. -/
inductive HostMove where
  /-- `HostWrite(addr, v)`. -/
  | write (addr : Word) (v : Byte)
  /-- `RequestInterrupt(n)`, n in 0..4. -/
  | request (n : Fin 5)
  /-- `Reset`, with the image and `INIT_MEM` it establishes (R350). That a reset in the middle of a run may bring another
  `INIT_MEM` than the launch, which R353 calls fixed for the run, or another image, is the model's choice (DESIGN CHOICE,
  log 19). -/
  | reset (image : List Byte) (initMem : List Host.Cell)
  deriving DecidableEq, Repr

/-- The input source's move: the joypad byte stored by `HostWrite(JOYP_ADDR, v)` (60_exceptions.md R333; 10_state.md R44). -/
def HostMove.joypad (v : Byte) (cfg : Config := params) : HostMove := .write cfg.joypAddr v

/-- A host move's effect: `HostWrite` is `writeByte` (R362), a request is `RequestInterrupt` (R309), a reset replaces every
state element (R350). That a store and a request act in the fatal state too is the model's choice, between R305 of
60_exceptions.md (memory keeps its values) and R362 (DESIGN CHOICE, log 18). -/
def State.hostMove (s : State) (m : HostMove) (cfg : Config := params) : State :=
  match m with
  | .write a v => s.writeByte a v cfg
  | .request n => s.requestInterrupt n.val cfg
  | .reset image initMem => State.launch image initMem cfg

/-- `HostRead(addr)` (R11). -/
def State.hostRead (s : State) (a : Word) : Byte := s.readByte a

/-- JOYP, a plain byte of memory at `JOYP_ADDR` (10_state.md R44). -/
def State.joyp (s : State) (cfg : Config := params) : Byte := s.readByte cfg.joypAddr

/-- A run of the machine and its host: `none` is one step, `some m` one host move before the next step (R362). -/
def runWithHost (moves : List (Option HostMove)) (s : State) (cfg : Config := params) :
    Host.Outcome State Fault Refusal :=
  match moves with
  | [] => .next s
  | some m :: rest => runWithHost rest (s.hostMove m cfg) cfg
  | none :: rest =>
    match stepIn cfg s with
    | .next t => runWithHost rest t cfg
    | .fault r => .fault r
    | .refused r => .refused r

/-- The loader's `verifyChecksum(image)`: each byte of 0x134..0x14C contributes `-byte-1`, truncated to 8 bits at every step
(R359). -/
def headerChecksum (image : List Byte) : Byte :=
  ((image.drop 0x134).take 25).foldl (fun acc v => acc - v - 1) 0

/-- `verifyChecksum(image)` (R359); none for an image too short to hold the header (log 14). -/
def verifyChecksum (image : List Byte) : Option Bool :=
  (image[0x14D]?).map (fun v => headerChecksum image == v)

/-- What `header(image)` extracts (R359). -/
structure Header where
  title : List Byte
  cartridgeType : Byte
  licenseCode : Word
  deriving DecidableEq, Repr

/-- `header(image)`: title at 0x134, license code at 0x144 low byte first, cartridge type at 0x147 (R359); none for an image
too short to hold them (log 14). -/
def header (image : List Byte) : Option Header :=
  match image[0x147]?, image[0x145]?, image[0x144]? with
  | some ty, some hi, some lo => some ⟨(image.drop 0x134).take 16, ty, mkWord hi lo⟩
  | _, _, _ => none

end Sys2Proof.Machine
end

