-- ==== Sys2Proof/Safety.lean ====
section
/-! DEFINITION. What claims about runs are stated with: when the machine has a step, and the invariants of its states. -/

namespace Sys2Proof.Machine

/-- The machine has a step: no fatal error has been raised (60_exceptions.md R303, R305). -/
def State.Live (s : State) : Prop := s.fatal = none

/-- `F[3:0]` is zero (10_state.md R30). -/
def State.LowNibbleZero (s : State) : Prop := s.f &&& 0x0F = 0

/-- The accumulators hold less than a period: DIV's 256, and for TIMA the longest, 1024 (10_state.md R47). -/
def State.AccBounded (s : State) : Prop := s.divAcc < 256 ∧ s.timaAcc < 1024

/-- The eleven opcode bytes of 30_encoding.md R102. -/
def illegalBytes : List Byte := [0xD3, 0xDB, 0xDD, 0xE3, 0xE4, 0xEB, 0xEC, 0xED, 0xF4, 0xFC, 0xFD]

/-- A fatal record names one of the eleven bytes as `Illegal`, or 0x10 as `Unimplemented` (60_exceptions.md R304). -/
def FatalRecord.Legal (r : FatalRecord) : Prop :=
  (r.kind = .illegal ∧ r.opcode ∈ illegalBytes) ∨ (r.kind = .unimplemented ∧ r.opcode = 0x10)

/-- A step's M-cycle output lies between 1 and 6 (70_reset_and_hazards.md R369). -/
def State.ElapsedBounded (s : State) : Prop := ∀ m, s.elapsed = some m → 1 ≤ m ∧ m ≤ 6

/-- The invariant of the machine's states: memory in canonical form, `F[3:0]` zero, the accumulators bounded, a fatal record
only of a byte that raises one, the output within table CY's range. -/
structure State.Inv (s : State) : Prop where
  mem_wf : Memory.wf s.mem
  low_nibble : s.LowNibbleZero
  acc : s.AccBounded
  fatal_legal : ∀ r, s.fatal = some r → r.Legal
  elapsed : s.ElapsedBounded

/-! ### What statements about instructions are written with -/

/-- The cells a byte store at `addr` reaches: `addr` and the cell 0x2000 lower in the echo window, none in the unusable
window, `addr` alone elsewhere (20_memory.md R61). -/
def storeHits (addr x : Word) : Bool :=
  if 0xE000 ≤ addr && addr < 0xFE00 then x == addr || x == addr - 0x2000
  else if 0xFEA0 ≤ addr && addr < 0xFEFF then false
  else x == addr

/-- What cell `x` holds after `Push16(v)` from `s`: the low byte at SP-2, which is written last, then the high byte at SP-1, each
through the address decoder (45_call_ret_stack.md R220). -/
def State.cellAfterPush (s : State) (v x : Word) : Byte :=
  if storeHits (s.sp - 2) x then loByte v
  else if storeHits (s.sp - 1) x then hiByte v
  else s.readByte x

/-- The bytes decode to the instruction, whatever follows them. -/
def EncodedAs (bytes : List Byte) (i : Instr) : Prop := ∀ rest, decode (bytes ++ rest) = .ok (i, rest)

/-- The instruction answers a next state, reports `m` M-cycles, and that state has the property. -/
def Completes (i : Instr) (s : State) (m : Nat) (p : State → Prop) : Prop :=
  ∃ t, exec i s = .next t ∧ t.elapsed = some m ∧ p t

/-- Every 8-bit register but those listed is unchanged. -/
def OtherRegs (changed : List Reg8) (s t : State) : Prop := ∀ r, r ∉ changed → t.readR8 r = s.readR8 r

/-- IME, halted, the two accumulators and the fatal record are unchanged. -/
def SameControl (s t : State) : Prop :=
  t.ime = s.ime ∧ t.halted = s.halted ∧ t.divAcc = s.divAcc ∧ t.timaAcc = s.timaAcc ∧ t.fatal = s.fatal

/-- SP, PC and the control state are unchanged. -/
def Quiet (s t : State) : Prop := t.sp = s.sp ∧ t.pc = s.pc ∧ SameControl s t

/-- Every byte of memory reads as before. -/
def SameMem (s t : State) : Prop := ∀ x, t.readByte x = s.readByte x

/-- Every cell the store at `addr` reaches holds `v`, every other byte of memory reads as before. -/
def Stored (addr : Word) (v : Byte) (s t : State) : Prop :=
  ∀ x, t.readByte x = if storeHits addr x then v else s.readByte x

/-- The four flags, each true exactly when its condition holds. -/
def FlagsAre (t : State) (z n h c : Prop) : Prop :=
  (t.flagZ = true ↔ z) ∧ (t.flagN = true ↔ n) ∧ (t.flagH = true ↔ h) ∧ (t.flagC = true ↔ c)

/-- The bits of F below the flags are unchanged. -/
def LowBitsKept (s t : State) : Prop := t.f &&& 0x0F = s.f &&& 0x0F

/-- The step from `s` idles: halted, and no enabled request or IME set (60_exceptions.md R300). -/
def State.Idling (s : State) : Prop :=
  s.halted = true ∧ (s.readByte 0xFFFF &&& s.readByte 0xFF0F &&& 0x1F = 0 ∨ s.ime = true)

/-- Bit `i` of what the byte-wide rotate or shift `o` gives (47_rotate_cb.md R255 to R269). -/
def rotatedBit (o : Rotate) (v : Byte) (cIn : Bool) (i : Nat) : Bool :=
  match o with
  | .rlc => v.getLsbD ((i + 7) % 8)
  | .rrc => v.getLsbD ((i + 1) % 8)
  | .rl => if i = 0 then cIn else v.getLsbD (i - 1)
  | .rr => if i = 7 then cIn else v.getLsbD (i + 1)
  | .sla => if i = 0 then false else v.getLsbD (i - 1)
  | .sra => if i = 7 then v.getLsbD 7 else v.getLsbD (i + 1)
  | .swap => v.getLsbD ((i + 4) % 8)
  | .srl => if i = 7 then false else v.getLsbD (i + 1)

/-- The bit a rotate or shift moves out: bit 7 to the left, bit 0 to the right, none for SWAP (47_rotate_cb.md R255 to R269). -/
def rotatedOut (o : Rotate) (v : Byte) : Bool :=
  match o with
  | .rlc | .rl | .sla => v.getLsbD 7
  | .rrc | .rr | .sra | .srl => v.getLsbD 0
  | .swap => false

/-- The field value `ooo` of a rotate or shift on the 0xCB page (30_encoding.md R98). -/
def Rotate.code : Rotate → Nat
  | .rlc => 0
  | .rrc => 1
  | .rl => 2
  | .rr => 3
  | .sla => 4
  | .sra => 5
  | .swap => 6
  | .srl => 7

/-- Two decimal digits as a packed byte (42_arith.md R190). -/
def bcd (n : Nat) : Byte := BitVec.ofNat 8 (16 * (n / 10) + n % 10)

end Sys2Proof.Machine
end

