-- ==== Sys2Proof/Certificates/Slice0/Obligations.lean ====
section
/-! DEFINITION. The statements about the model, one per obligation of OBLIGATIONS.json; the vocabulary is Sys2Proof/Safety.lean's. -/

open Sys2Proof Sys2Proof.Machine

/-- For every well-formed instruction i and every list of bytes that follows, decoding encode i and those bytes answers i
with the following bytes left over; for the prefix row, the second-page instruction that its second byte selects.
(R90, R91, R99, R104, R245) -/
def Obligations.EncodeThenDecodeGivesTheInstruction : Prop :=
  ∀ (i : Instr) (rest : List Byte), i.wellFormed = true → decode (encode i ++ rest) = .ok (i.canonical, rest)

/-- For all bytes b0, b1, b2 the decoded instruction is well formed and its encoding is the first length-many of the three
bytes: every byte sequence has one meaning and no bit of it is dropped. (R92, R99, R105) -/
def Obligations.DecodeThenEncodeGivesTheBytes : Prop :=
  ∀ b0 b1 b2 : Byte,
    (decodeBytes b0 b1 b2).wellFormed = true ∧
      encode (decodeBytes b0 b1 b2) = [b0, b1, b2].take (decodeBytes b0 b1 b2).length

/-- For all bytes, the length of the decoded instruction is 1, 2 or 3, depends on the first byte only, and is 2 when the
first byte is 0xCB. (R90) -/
def Obligations.FirstByteAloneDecidesTheLength : Prop :=
  ∀ b0 b1 b2 c1 c2 : Byte,
    (decodeBytes b0 b1 b2).length = (decodeBytes b0 c1 c2).length ∧
      1 ≤ (decodeBytes b0 b1 b2).length ∧ (decodeBytes b0 b1 b2).length ≤ 3 ∧
      (b0 = 0xCB → (decodeBytes b0 b1 b2).length = 2)

/-- Eleven byte sequences written out from the opcode maps, one or more per family, decode to the instructions the maps
give. (R100, R101) -/
def Obligations.WordsOfEachFamilyDecodeAsTheTablesSay : Prop :=
  decodeBytes 0x41 0x00 0x00 = .ldRR .b .c ∧ decodeBytes 0x21 0x00 0xC0 = .ldRrN16 .hl 0xC000 ∧
    decodeBytes 0x35 0x00 0x00 = .decHl ∧ decodeBytes 0xDE 0x3A 0x00 = .sbcAN8 0x3A ∧
    decodeBytes 0xB1 0x00 0x00 = .orR .c ∧ decodeBytes 0x20 0xFB 0x00 = .jrCcE8 .nz 0xFB ∧
    decodeBytes 0xDC 0x00 0x02 = .callCcA16 .c 0x0200 ∧ decodeBytes 0xEF 0x00 0x00 = .rst 5 ∧
    decodeBytes 0x76 0x00 0x00 = .halt ∧ decodeBytes 0xFD 0x00 0x00 = .illegalFD ∧
    decodeBytes 0xCB 0x7C 0x00 = .bitBR 7 .h

/-- In a live state that does not idle, if the bytes at PC, PC+1, PC+2 decode to i, the step is exec i from the state with
halted cleared and PC past the instruction, followed, unless it raised the fatal error, by UpdateTimer(4*m) for the
reported m and by HandleInterrupts. That the step which raises the fatal error answers a next state is the model's
choice (log 3), and so is what the equation says of a step that wakes from HALT and then raises it, halted cleared in
the fatal state (log 15): R304, read alone, says that the faulting step changes no state but fatal and PC. (R26, R27,
R300, R304) -/
def Obligations.StepRunsTheDecodedInstruction : Prop :=
  ∀ (s : State) (i : Instr) (rest : List Byte), s.fatal = none → ¬ s.Idling →
    decode [s.readByte s.pc, s.readByte (s.pc + 1), s.readByte (s.pc + 2)] = .ok (i, rest) →
    step s =
      match exec i { s with halted := false, pc := s.pc + BitVec.ofNat 16 i.length } with
      | .next t =>
        .next
          (match t.fatal with
          | some _ => t
          | none => (t.updateTimer (4 * t.elapsed.getD 0)).handleInterrupts)
      | .fault r => .fault r
      | .refused r => .refused r

/-- In a live state that is halted with no enabled request, or halted with IME set, the step reports one M-cycle, runs
UpdateTimer(4) and HandleInterrupts, and does nothing else. (R300, R335) -/
def Obligations.HaltedStepIdlesForOneCycle : Prop :=
  ∀ s : State, s.fatal = none → s.Idling →
    step s = .next ((({ s with elapsed := some 1 } : State).updateTimer 4).handleInterrupts)

/-- In a state that holds a fatal record the step is the fault that carries that record. (R305) -/
def Obligations.FatalStateHasNoStep : Prop :=
  ∀ (s : State) (r : FatalRecord), s.fatal = some r → step s = .fault (.fatalState r)

/-- For every state with no fatal record there is a next state: no fault, no refusal, nothing that blocks. (R303) -/
def Obligations.EveryLiveStateHasAStep : Prop :=
  ∀ s : State, s.Live → ∃ t, step s = .next t

/-- In a live state that does not idle, the step answers a next state whose fatal record is (Illegal, the byte, PC) if the
byte at PC is one of the eleven, (Unimplemented, 0x10, PC) if it is 0x10, and none otherwise. (R102, R103, R304, R306) -/
def Obligations.FatalErrorExactlyForTheTwelveOpcodes : Prop :=
  ∀ s : State, s.Live → ¬ s.Idling →
    ∃ t, step s = .next t ∧
      t.fatal =
        if s.readByte s.pc ∈ illegalBytes then some ⟨.illegal, s.readByte s.pc, s.pc⟩
        else if s.readByte s.pc = 0x10 then some ⟨.unimplemented, 0x10, s.pc⟩
        else none

/-- For every state: each byte at 0xFEA0 to 0xFEFE reads as before after every step to a next state, after every byte
store, a program's or the host's, and after every interrupt request. (R63) -/
def Obligations.UnusableWindowIsNeverWritten : Prop :=
  ∀ (s : State) (x : Word), 0xFEA0 ≤ x → x < 0xFEFF →
    (∀ t, step s = .next t → t.readByte x = s.readByte x) ∧
      (∀ (a : Word) (v : Byte), (s.writeByte a v).readByte x = s.readByte x) ∧
      (∀ (a : Word) (v : Byte), (s.hostMove (.write a v)).readByte x = s.readByte x) ∧
      ∀ n : Fin 5, (s.hostMove (.request n)).readByte x = s.readByte x

/-- State.reset has a memory in canonical form, a zero low nibble in F, accumulators below a period, no fatal record and
no output; it equals the launch with the empty image and no cell of INIT_MEM placed; that an unplaced byte reads 0x00
is the model's choice (log 1), not the spec's. (R30, R47, R52, R350) -/
def Obligations.ResetStateHasTheInvariant : Prop :=
  State.reset.Inv ∧ State.reset = State.launch [] [] ∧ ∀ x : Word, State.reset.readByte x = 0x00

/-- If a state has the invariant and its step answers a next state, that state has it: memory in canonical form, F[3:0] =
0, divAcc < 256, timaAcc < 1024, a fatal record only of a byte that raises one, an output of 1 to 6 M-cycles. (R30,
R47, R304, R369) -/
def Obligations.EveryStepKeepsTheInvariant : Prop :=
  ∀ s t : State, s.Inv → step s = .next t → t.Inv

/-- If a state has the invariant, so has the state after any host move: HostWrite, RequestInterrupt(n) for n in 0..4,
Reset with any image and any INIT_MEM. (R11, R309, R350, R362) -/
def Obligations.EveryHostMoveKeepsTheInvariant : Prop :=
  ∀ (s : State) (m : HostMove), s.Inv → (s.hostMove m).Inv

/-- A host store and an interrupt request leave every register, IME, halted, the accumulators, the fatal record and the
output as they were. (R24) -/
def Obligations.HostTouchesMemoryOnly : Prop :=
  ∀ (s : State) (a : Word) (v : Byte) (n : Fin 5),
    s.hostMove (.write a v) = { s with mem := (s.hostMove (.write a v)).mem } ∧
      s.hostMove (.request n) = { s with mem := (s.hostMove (.request n)).mem }

/-- For every state, address, value and cell: after writeByte the cell reads the value if the store reaches it (the
address itself and the cell 0x2000 lower for 0xE000..0xFDFF, nothing for 0xFEA0..0xFEFE, the address alone elsewhere)
and reads as before if not; nothing but memory changes. (R61, R62) -/
def Obligations.ByteStoreGoesThroughTheAddressDecoder : Prop :=
  ∀ (s : State) (a : Word) (v : Byte),
    Stored a v s (s.writeByte a v) ∧ s.writeByte a v = { s with mem := (s.writeByte a v).mem }

/-- For every state, address and word: after writeWord a cell reached by the store at addr+1 holds the high byte, else one
reached by the store at addr holds the low byte, else it reads as before; readWord is 256 times the byte at addr+1
plus the byte at addr, addresses modulo 2^16. (R64, R65) -/
def Obligations.WordsAreTwoDecodedBytesLittleEndian : Prop :=
  ∀ (s : State) (a v : Word),
    (∀ x, (s.writeWord a v).readByte x =
        if storeHits (a + 1) x then BitVec.ofNat 8 (v.toNat / 256)
        else if storeHits a x then BitVec.ofNat 8 (v.toNat % 256)
        else s.readByte x) ∧
      (s.readWord a).toNat = 256 * (s.readByte (a + 1)).toNat + (s.readByte a).toNat

/-- For every pair and word, getWord after setWord is the word; AF, BC, DE, HL are 256 times the high register plus the
low one. (R20, R25) -/
def Obligations.RegisterPairsRoundTrip : Prop :=
  (∀ (s : State) (p : RegPair) (w : Word), (s.setWord p w).getWord p = w) ∧
    ∀ s : State,
      (s.getWord .af).toNat = 256 * s.a.toNat + s.f.toNat ∧ (s.getWord .bc).toNat = 256 * s.b.toNat + s.c.toNat ∧
        (s.getWord .de).toNat = 256 * s.d.toNat + s.e.toNat ∧ (s.getWord .hl).toNat = 256 * s.h.toNat + s.l.toNat

/-- Popping returns 256 times the byte at SP+1 plus the byte at SP, adds two to SP and leaves memory; after a push whose
two addresses lie outside the unusable window the popped word is the pushed one and SP is back. (R221) -/
def Obligations.PushThenPopGivesTheWordBack : Prop :=
  ∀ (s : State) (v : Word),
    (s.popWord.toNat = 256 * (s.readByte (s.sp + 1)).toNat + (s.readByte s.sp).toNat ∧
        s.popped = { s with sp := s.sp + 2 }) ∧
      (¬ (0xFEA0 ≤ s.sp - 1 ∧ s.sp - 1 < 0xFEFF) → ¬ (0xFEA0 ≤ s.sp - 2 ∧ s.sp - 2 < 0xFEFF) →
        (s.push16 v).popWord = v ∧ (s.push16 v).popped.sp = s.sp)

/-- After UpdateDivider(t) DIV is its old value plus (divAcc + t) div 256 modulo 256, divAcc is (divAcc + t) mod 256,
every other byte and every other part of the state is as before. (R324) -/
def Obligations.DividerCountsOncePer256TCycles : Prop :=
  ∀ (s : State) (t : Nat),
    ((s.updateDivider t).readByte 0xFF04).toNat = ((s.readByte 0xFF04).toNat + (s.divAcc + t) / 256) % 256 ∧
      (s.updateDivider t).divAcc = (s.divAcc + t) % 256 ∧
      (∀ x, x ≠ 0xFF04 → (s.updateDivider t).readByte x = s.readByte x) ∧
      s.updateDivider t = { s with divAcc := (s.updateDivider t).divAcc, mem := (s.updateDivider t).mem }

/-- If bit 2 of TAC is 0, UpdateTima(t) leaves the state as it is. If it is 1, with P the period that TAC[1:0] selects
(1024, 16, 64, 256) and k = (timaAcc + t) div P increments: if TIMA + k is at most 0xFF, TIMA becomes TIMA + k and IF
is unchanged; otherwise IF gets bit 2 and TIMA becomes TMA + ((TIMA + k - 256) mod (256 - TMA)); timaAcc becomes
(timaAcc + t) mod P; every other byte and part of the state is as before. (R43, R325, R326, R327) -/
def Obligations.TimerCountsReloadsAndRequests : Prop :=
  (∀ (s : State) (t : Nat), (s.readByte 0xFF07).getLsbD 2 = false → s.updateTima t = s) ∧
    ∀ (s : State) (t P k : Nat), (s.readByte 0xFF07).getLsbD 2 = true →
      P = [1024, 16, 64, 256].getD ((s.readByte 0xFF07).toNat % 4) 0 → k = (s.timaAcc + t) / P →
      (if (s.readByte 0xFF05).toNat + k ≤ 255 then
          ((s.updateTima t).readByte 0xFF05).toNat = (s.readByte 0xFF05).toNat + k ∧
            (s.updateTima t).readByte 0xFF0F = s.readByte 0xFF0F
        else
          ((s.updateTima t).readByte 0xFF05).toNat =
              (s.readByte 0xFF06).toNat +
                ((s.readByte 0xFF05).toNat + k - 256) % (256 - (s.readByte 0xFF06).toNat) ∧
            (s.updateTima t).readByte 0xFF0F = s.readByte 0xFF0F ||| 0x04) ∧
        (s.updateTima t).timaAcc = (s.timaAcc + t) % P ∧
        (∀ x, x ≠ 0xFF05 → x ≠ 0xFF0F → (s.updateTima t).readByte x = s.readByte x) ∧
        s.updateTima t = { s with timaAcc := (s.updateTima t).timaAcc, mem := (s.updateTima t).mem }

/-- For every state and all t1, t2: UpdateTimer(t1 + t2) and UpdateTimer(t1) followed by UpdateTimer(t2) leave the same
accumulators, the same byte at every address and the same rest of the state. (R322, R330) -/
def Obligations.TimerDoesNotSeeHowCyclesAreSplit : Prop :=
  ∀ (s : State) (t1 t2 : Nat),
    (∀ x, (s.updateTimer (t1 + t2)).readByte x = ((s.updateTimer t1).updateTimer t2).readByte x) ∧
      { s.updateTimer (t1 + t2) with mem := [] } = { (s.updateTimer t1).updateTimer t2 with mem := [] }

/-- With IME set, n below 5 the least source whose bits in IE and IF are both set: HandleInterrupts clears IME and halted,
lowers SP by two, stores PC there, clears bit n of what IF then holds, sets PC to 0x0040 + 8n, and changes nothing
else. (R315, R316) -/
def Obligations.InterruptEntryServicesTheLowestSource : Prop :=
  ∀ (s : State) (n : Nat), s.ime = true → n < 5 →
    (s.readByte 0xFFFF).getLsbD n = true → (s.readByte 0xFF0F).getLsbD n = true →
    (∀ i, i < n → ¬ ((s.readByte 0xFFFF).getLsbD i = true ∧ (s.readByte 0xFF0F).getLsbD i = true)) →
    s.handleInterrupts =
        { s with ime := false, halted := false, sp := s.sp - 2, pc := BitVec.ofNat 16 (0x40 + 8 * n),
                 mem := s.handleInterrupts.mem } ∧
      ∀ x, s.handleInterrupts.readByte x =
        if x = 0xFF0F then s.cellAfterPush s.pc x &&& ~~~(1#8 <<< n) else s.cellAfterPush s.pc x

/-- If IME is 0, or IE & IF & 0x1F is 0, HandleInterrupts leaves the state as it is; bits 7 to 5 take no part. (R308,
R315) -/
def Obligations.ClosedGatesServiceNothing : Prop :=
  ∀ s : State, (s.ime = false ∨ s.readByte 0xFFFF &&& s.readByte 0xFF0F &&& 0x1F = 0) → s.handleInterrupts = s

/-- For n in 0..4: IF becomes IF | (1 << n), every other byte and part of the state is as before, and a second request
leaves every byte as the first did. (R309) -/
def Obligations.RequestSetsOneBitOfIfAndIsIdempotent : Prop :=
  ∀ (s : State) (n : Fin 5),
    (∀ x, (s.requestInterrupt n.val).readByte x =
        if x = 0xFF0F then s.readByte 0xFF0F ||| (1#8 <<< n.val) else s.readByte x) ∧
      s.requestInterrupt n.val = { s with mem := (s.requestInterrupt n.val).mem } ∧
      ∀ x, ((s.requestInterrupt n.val).requestInterrupt n.val).readByte x = (s.requestInterrupt n.val).readByte x

/-- If a step takes IME from 0 to 1 the machine was not idling and the instruction was EI or RETI. If it takes IME from 1
to 0, either it was not idling and the instruction was DI, or the step ended in an interrupt entry: with v what the
instruction (or the idle cycle) left and u what UpdateTimer made of v, the next state is the entry from u for a source
n below 5 whose bits in IE and IF are set: SP two less, the PC of u pushed, bit n of IF cleared, PC at 0x0040 + 8n.
(R36, R311, R315) -/
def Obligations.ImeOpensByEiAndRetiAndClosesByDiAndEntry : Prop :=
  ∀ s t : State, step s = .next t →
    (s.ime = false → t.ime = true → ¬ s.Idling ∧ (s.fetched = .ei ∨ s.fetched = .reti)) ∧
      (s.ime = true → t.ime = false →
        (¬ s.Idling ∧ s.fetched = .di) ∨
          ∃ (v u : State) (n : Nat),
            ((s.Idling ∧ v = { s with elapsed := some 1 }) ∨
                (¬ s.Idling ∧ exec s.fetched (s.ready s.fetched) = .next v)) ∧
              u = v.updateTimer (4 * v.elapsed.getD 0) ∧ n < 5 ∧
              (u.readByte 0xFFFF).getLsbD n = true ∧ (u.readByte 0xFF0F).getLsbD n = true ∧
              t = u.enterInterrupt n ∧ t.sp = u.sp - 2 ∧ t.pc = BitVec.ofNat 16 (0x40 + 8 * n) ∧
              ∀ x, t.readByte x =
                if x = 0xFF0F then u.cellAfterPush u.pc x &&& ~~~(1#8 <<< n) else u.cellAfterPush u.pc x)

/-- After UpdateTimer(t) and HandleInterrupts, A, F, B, C, D, E, H, L, the fatal record and the output are as before.
(R32, R315, R322) -/
def Obligations.TimerAndInterruptCheckKeepRegistersAndFlags : Prop :=
  ∀ (s : State) (t : Nat) (u : State), u = (s.updateTimer t).handleInterrupts →
    OtherRegs [] s u ∧ u.f = s.f ∧ u.fatal = s.fatal ∧ u.elapsed = s.elapsed

/-- AF = 0x01B0, BC = 0x0013, DE = 0x00D8, HL = 0x014D, SP = 0xFFFE, PC = 0x0100, IME, halted and the accumulators 0, no
fatal record; memory is the image below min(length, 0x8000), 0x00 in DIV, TIMA, TMA, TAC, IF, IE, and INIT_MEM
elsewhere. (R350) -/
def Obligations.LaunchEstablishesTheResetTable : Prop :=
  ∀ (image : List Byte) (initMem : List Host.Cell) (s : State), s = State.launch image initMem →
    s.getWord .af = 0x01B0 ∧ s.getWord .bc = 0x0013 ∧ s.getWord .de = 0x00D8 ∧ s.getWord .hl = 0x014D ∧
      s.sp = 0xFFFE ∧ s.pc = 0x0100 ∧ s.ime = false ∧ s.divAcc = 0 ∧ s.timaAcc = 0 ∧ s.halted = false ∧
      s.fatal = none ∧
      ∀ x : Word, s.readByte x =
        if x.toNat < min image.length 0x8000 then image.getD x.toNat 0
        else if x ∈ [0xFF04, 0xFF05, 0xFF06, 0xFF07, 0xFF0F, 0xFFFF] then 0x00
        else (Memory.place [] initMem).read x.toNat

/-- Each of the three loads decodes from its pattern, completes with its cycle count, puts the source byte into the
destination register and leaves every other register, the flags, SP, PC, the control state and memory as they were.
(R121, R122, R123) -/
def Obligations.LoadsIntoARegister : Prop :=
  ∀ (rd rs : Reg8) (n : Byte) (s : State),
    (EncodedAs [opByte 1 rd.code rs.code] (.ldRR rd rs) ∧ EncodedAs [opByte 0 rd.code 6, n] (.ldRN8 rd n) ∧
        EncodedAs [opByte 1 rd.code 6] (.ldRHl rd)) ∧
      Completes (.ldRR rd rs) s 1 (fun t =>
        t.readR8 rd = s.readR8 rs ∧ OtherRegs [rd] s t ∧ t.f = s.f ∧ Quiet s t ∧ SameMem s t) ∧
      Completes (.ldRN8 rd n) s 2 (fun t =>
        t.readR8 rd = n ∧ OtherRegs [rd] s t ∧ t.f = s.f ∧ Quiet s t ∧ SameMem s t) ∧
      Completes (.ldRHl rd) s 2 (fun t =>
        t.readR8 rd = s.readByte (s.getWord .hl) ∧ OtherRegs [rd] s t ∧ t.f = s.f ∧ Quiet s t ∧ SameMem s t)

/-- Each of the five loads decodes from its bytes, completes with its cycle count, puts the byte at its address into A and
leaves every other register, the flags, SP, PC, the control state and memory as they were. (R126, R127, R135, R137,
R139) -/
def Obligations.LoadsIntoA : Prop :=
  ∀ (a : Word) (o : Byte) (s : State),
    (EncodedAs [0x0A] .ldABc ∧ EncodedAs [0x1A] .ldADe ∧ EncodedAs [0xFA, loByte a, hiByte a] (.ldAA16 a) ∧
        EncodedAs [0xF0, o] (.ldhAA8 o) ∧ EncodedAs [0xF2] .ldAC) ∧
      ∀ p ∈ [(Instr.ldABc, s.getWord .bc, 2), (.ldADe, s.getWord .de, 2), (.ldAA16 a, a, 4),
          (.ldhAA8 o, BitVec.ofNat 16 (0xFF00 + o.toNat), 3), (.ldAC, BitVec.ofNat 16 (0xFF00 + s.c.toNat), 2)],
        Completes p.1 s p.2.2 (fun t =>
          t.a = s.readByte p.2.1 ∧ OtherRegs [.a] s t ∧ t.f = s.f ∧ Quiet s t ∧ SameMem s t)

/-- Both stores decode from their patterns and complete with their cycle counts; every cell the store at HL reaches holds
the byte, every other byte of memory, every register, the flags, SP, PC and the control state are as before. (R124,
R125) -/
def Obligations.StoresAtHl : Prop :=
  ∀ (rs : Reg8) (n : Byte) (s : State),
    (EncodedAs [opByte 1 6 rs.code] (.ldHlR rs) ∧ EncodedAs [0x36, n] (.ldHlN8 n)) ∧
      Completes (.ldHlR rs) s 2 (fun t =>
        Stored s.hl (s.readR8 rs) s t ∧ OtherRegs [] s t ∧ t.f = s.f ∧ Quiet s t) ∧
      Completes (.ldHlN8 n) s 3 (fun t => Stored s.hl n s t ∧ OtherRegs [] s t ∧ t.f = s.f ∧ Quiet s t)

/-- Each of the five stores decodes from its bytes and completes with its cycle count; every cell the store at its address
reaches holds A, every other byte of memory, every register, the flags, SP, PC and the control state are as before.
(R128, R129, R134, R136, R138) -/
def Obligations.StoresOfA : Prop :=
  ∀ (a : Word) (o : Byte) (s : State),
    (EncodedAs [0x02] .ldBcA ∧ EncodedAs [0x12] .ldDeA ∧ EncodedAs [0xEA, loByte a, hiByte a] (.ldA16A a) ∧
        EncodedAs [0xE0, o] (.ldhA8A o) ∧ EncodedAs [0xE2] .ldCA) ∧
      ∀ p ∈ [(Instr.ldBcA, s.bc, 2), (.ldDeA, s.de, 2), (.ldA16A a, a, 4), (.ldhA8A o, highPage o, 3),
          (.ldCA, highPage s.c, 2)],
        Completes p.1 s p.2.2 (fun t =>
          Stored p.2.1 s.a s t ∧ OtherRegs [] s t ∧ t.f = s.f ∧ Quiet s t)

/-- The stores put A in every cell the store at the old HL reaches, the loads put the byte at the old HL into A; HL
becomes HL + 1 or HL - 1; every other register, the flags, SP, PC, the control state and every other byte are as
before. (R130, R131, R132, R133) -/
def Obligations.LoadsAndStoresThroughHlStepHl : Prop :=
  ∀ s : State,
    (EncodedAs [0x22] .ldHliA ∧ EncodedAs [0x32] .ldHldA ∧ EncodedAs [0x2A] .ldAHli ∧ EncodedAs [0x3A] .ldAHld) ∧
      (∀ p ∈ [(Instr.ldHliA, 1), (.ldHldA, 65535)],
        Completes p.1 s 2 (fun t =>
          Stored s.hl s.a s t ∧ (t.getWord .hl).toNat = ((s.getWord .hl).toNat + p.2) % 65536 ∧
            OtherRegs [.h, .l] s t ∧ t.f = s.f ∧ Quiet s t)) ∧
      ∀ p ∈ [(Instr.ldAHli, 1), (.ldAHld, 65535)],
        Completes p.1 s 2 (fun t =>
          t.a = s.readByte (s.getWord .hl) ∧ (t.getWord .hl).toNat = ((s.getWord .hl).toNat + p.2) % 65536 ∧
            OtherRegs [.a, .h, .l] s t ∧ t.f = s.f ∧ Quiet s t ∧ SameMem s t)

/-- LD rr,n16 puts the immediate, low byte first in the encoding, into BC, DE, HL or SP; LD SP,HL copies HL to SP; every
other pair, the flags, PC, the control state and memory are as before. (R140, R141) -/
def Obligations.LoadsOfPairs : Prop :=
  ∀ (p : Reg16) (n : Word) (s : State),
    (EncodedAs [opByte 0 (2 * p.code) 1, loByte n, hiByte n] (.ldRrN16 p n) ∧ EncodedAs [0xF9] .ldSpHl) ∧
      Completes (.ldRrN16 p n) s 3 (fun t =>
        t.readR16 p = n ∧ (∀ q, q ≠ p → t.readR16 q = s.readR16 q) ∧ t.a = s.a ∧ t.f = s.f ∧ t.pc = s.pc ∧
          SameControl s t ∧ SameMem s t) ∧
      Completes .ldSpHl s 2 (fun t =>
        t.sp = s.getWord .hl ∧ OtherRegs [] s t ∧ t.f = s.f ∧ t.pc = s.pc ∧ SameControl s t ∧ SameMem s t)

/-- The result is SP plus the two's-complement displacement modulo 65536; Z and N are 0, H is carry out of bit 3 and C
carry out of bit 7 of SP[7:0] plus the unsigned byte; only the destination and F change. (R142, R189, R191) -/
def Obligations.StackPointerPlusDisplacement : Prop :=
  ∀ (e : Byte) (s : State),
    (EncodedAs [0xF8, e] (.ldHlSpE8 e) ∧ EncodedAs [0xE8, e] (.addSpE8 e)) ∧
      Completes (.ldHlSpE8 e) s 3 (fun t =>
        ((t.getWord .hl).toNat : Int) = ((s.sp.toNat : Int) + e.toInt) % 65536 ∧
          FlagsAre t False False (s.sp.toNat % 16 + e.toNat % 16 > 15) (s.sp.toNat % 256 + e.toNat > 255) ∧
          LowBitsKept s t ∧ OtherRegs [.h, .l] s t ∧ Quiet s t ∧ SameMem s t) ∧
      Completes (.addSpE8 e) s 4 (fun t =>
        (t.sp.toNat : Int) = ((s.sp.toNat : Int) + e.toInt) % 65536 ∧
          FlagsAre t False False (s.sp.toNat % 16 + e.toNat % 16 > 15) (s.sp.toNat % 256 + e.toNat > 255) ∧
          LowBitsKept s t ∧ OtherRegs [] s t ∧ t.pc = s.pc ∧ SameControl s t ∧ SameMem s t)

/-- Every cell reached by the store at a16+1 holds SP[15:8], else every cell reached by the store at a16 holds SP[7:0],
every other byte, every register, the flags, SP, PC and the control state are as before. (R146) -/
def Obligations.StoreOfSp : Prop :=
  ∀ (a : Word) (s : State),
    EncodedAs [0x08, loByte a, hiByte a] (.ldA16Sp a) ∧
      Completes (.ldA16Sp a) s 5 (fun t =>
        (∀ x, t.readByte x =
            if storeHits (a + 1) x then BitVec.ofNat 8 (s.sp.toNat / 256)
            else if storeHits a x then BitVec.ofNat 8 (s.sp.toNat % 256)
            else s.readByte x) ∧
          OtherRegs [] s t ∧ t.f = s.f ∧ Quiet s t)

/-- INC adds one, N 0, H when the low nibble was 0xF; DEC subtracts one, N 1, H when the low nibble was 0; Z from the
result, C as before; every other register, SP, PC, the control state and memory as before. (R160, R161, R162, R164) -/
def Obligations.IncAndDecOfARegister : Prop :=
  ∀ (rd : Reg8) (s : State),
    (EncodedAs [opByte 0 rd.code 4] (.incR rd) ∧ EncodedAs [opByte 0 rd.code 5] (.decR rd)) ∧
      Completes (.incR rd) s 1 (fun t =>
        (t.readR8 rd).toNat = ((s.readR8 rd).toNat + 1) % 256 ∧
          FlagsAre t (t.readR8 rd = 0) False ((s.readR8 rd).toNat % 16 = 15) (s.flagC = true) ∧
          LowBitsKept s t ∧ OtherRegs [rd] s t ∧ Quiet s t ∧ SameMem s t) ∧
      Completes (.decR rd) s 1 (fun t =>
        (t.readR8 rd).toNat = ((s.readR8 rd).toNat + 255) % 256 ∧
          FlagsAre t (t.readR8 rd = 0) True ((s.readR8 rd).toNat % 16 = 0) (s.flagC = true) ∧
          LowBitsKept s t ∧ OtherRegs [rd] s t ∧ Quiet s t ∧ SameMem s t)

/-- With v the byte at HL and r = v + 1 or v - 1 modulo 256: every cell the store at HL reaches holds r, every other byte
is as before, the flags are those of r whether or not the store is kept, C and every register as before. (R163, R165) -/
def Obligations.IncAndDecOfTheByteAtHl : Prop :=
  ∀ s : State,
    (EncodedAs [0x34] .incHl ∧ EncodedAs [0x35] .decHl) ∧
      Completes .incHl s 3 (fun t =>
        Stored s.hl (BitVec.ofNat 8 ((s.readByte s.hl).toNat + 1)) s t ∧
          FlagsAre t ((s.readByte s.hl).toNat = 255) False ((s.readByte s.hl).toNat % 16 = 15) (s.flagC = true) ∧
          LowBitsKept s t ∧ OtherRegs [] s t ∧ Quiet s t) ∧
      Completes .decHl s 3 (fun t =>
        Stored s.hl (BitVec.ofNat 8 ((s.readByte s.hl).toNat + 255)) s t ∧
          FlagsAre t ((s.readByte s.hl).toNat = 1) True ((s.readByte s.hl).toNat % 16 = 0) (s.flagC = true) ∧
          LowBitsKept s t ∧ OtherRegs [] s t ∧ Quiet s t)

/-- The named pair becomes itself plus or minus one modulo 65536; every other pair, A, the flags, PC, the control state
and memory are as before. (R166, R167) -/
def Obligations.IncAndDecOfAPair : Prop :=
  ∀ (p : Reg16) (s : State),
    (EncodedAs [opByte 0 (2 * p.code) 3] (.incRr p) ∧ EncodedAs [opByte 0 (2 * p.code + 1) 3] (.decRr p)) ∧
      ∀ q ∈ [(Instr.incRr p, 1), (.decRr p, 65535)],
        Completes q.1 s 2 (fun t =>
          (t.readR16 p).toNat = ((s.readR16 p).toNat + q.2) % 65536 ∧ (∀ o, o ≠ p → t.readR16 o = s.readR16 o) ∧
            t.a = s.a ∧ t.f = s.f ∧ t.pc = s.pc ∧ SameControl s t ∧ SameMem s t)

/-- For register, (HL) and immediate operands x, with c the carry flag for ADC and 0 for ADD: A becomes (A + x + c) mod
256, the flags follow, and every other register, SP, PC, the control state and memory are as before. (R171, R174,
R176, R177, R178, R179, R180, R181) -/
def Obligations.AddAndAdcIntoA : Prop :=
  ∀ (rs : Reg8) (n : Byte) (s : State),
    (EncodedAs [opByte 2 0 rs.code] (.addAR rs) ∧ EncodedAs [0x86] .addAHl ∧ EncodedAs [0xC6, n] (.addAN8 n) ∧
        EncodedAs [opByte 2 1 rs.code] (.adcAR rs) ∧ EncodedAs [0x8E] .adcAHl ∧ EncodedAs [0xCE, n] (.adcAN8 n)) ∧
      ∀ p ∈ [(Instr.addAR rs, s.readR8 rs, false, 1), (.addAHl, s.readByte s.hl, false, 2), (.addAN8 n, n, false, 2),
          (.adcAR rs, s.readR8 rs, s.flagC, 1), (.adcAHl, s.readByte s.hl, s.flagC, 2), (.adcAN8 n, n, s.flagC, 2)],
        Completes p.1 s p.2.2.2 (fun t =>
          t.a.toNat = (s.a.toNat + p.2.1.toNat + p.2.2.1.toNat) % 256 ∧
            FlagsAre t (t.a = 0) False (s.a.toNat % 16 + p.2.1.toNat % 16 + p.2.2.1.toNat > 15)
              (s.a.toNat + p.2.1.toNat + p.2.2.1.toNat > 255) ∧
            LowBitsKept s t ∧ OtherRegs [.a] s t ∧ Quiet s t ∧ SameMem s t)

/-- For register, (HL) and immediate operands x, with c the carry flag for SBC and 0 otherwise: the difference A - x - c
modulo 256 goes to A (not for CP), Z when it is 0, N 1, H when the low nibbles borrow, C when the difference is
negative; every other register, SP, PC, the control state and memory are as before. (R175, R182, R183, R184, R185,
R186, R187, R204, R205, R206) -/
def Obligations.SubSbcAndCp : Prop :=
  ∀ (rs : Reg8) (n : Byte) (s : State),
    (EncodedAs [opByte 2 2 rs.code] (.subR rs) ∧ EncodedAs [0x96] .subHl ∧ EncodedAs [0xD6, n] (.subN8 n) ∧
        EncodedAs [opByte 2 3 rs.code] (.sbcAR rs) ∧ EncodedAs [0x9E] .sbcAHl ∧ EncodedAs [0xDE, n] (.sbcAN8 n) ∧
        EncodedAs [opByte 2 7 rs.code] (.cpR rs) ∧ EncodedAs [0xBE] .cpHl ∧ EncodedAs [0xFE, n] (.cpN8 n)) ∧
      ∀ p ∈ [(Instr.subR rs, s.readR8 rs, false, true, 1), (.subHl, s.readByte s.hl, false, true, 2),
          (.subN8 n, n, false, true, 2), (.sbcAR rs, s.readR8 rs, s.flagC, true, 1),
          (.sbcAHl, s.readByte s.hl, s.flagC, true, 2), (.sbcAN8 n, n, s.flagC, true, 2),
          (.cpR rs, s.readR8 rs, false, false, 1), (.cpHl, s.readByte s.hl, false, false, 2),
          (.cpN8 n, n, false, false, 2)],
        Completes p.1 s p.2.2.2.2 (fun t =>
          (if p.2.2.2.1 then (t.a.toNat : Int) = ((s.a.toNat : Int) - p.2.1.toNat - p.2.2.1.toNat) % 256
            else t.a = s.a) ∧
            FlagsAre t (((s.a.toNat : Int) - p.2.1.toNat - p.2.2.1.toNat) % 256 = 0) True
              (s.a.toNat % 16 < p.2.1.toNat % 16 + p.2.2.1.toNat) (s.a.toNat < p.2.1.toNat + p.2.2.1.toNat) ∧
            LowBitsKept s t ∧ OtherRegs [.a] s t ∧ Quiet s t ∧ SameMem s t)

/-- For all bytes a, b and carry-in c: the H that add8 and sub8 give is bit 4 of a xor b xor the result; H and C are the
nibble and byte comparisons of the rules. (R170, R172) -/
def Obligations.HalfCarryMethodsAgree : Prop :=
  ∀ (a b : Byte) (c : Bool),
    ((add8 a b c).flags.h = true ↔ (a ^^^ b ^^^ (add8 a b c).val) &&& 0x10 ≠ 0) ∧
      ((add8 a b c).flags.h = true ↔ (a &&& 0xF).toNat + (b &&& 0xF).toNat + c.toNat > 0xF) ∧
      ((sub8 a b c).flags.h = true ↔ (a ^^^ b ^^^ (sub8 a b c).val) &&& 0x10 ≠ 0) ∧
      ((sub8 a b c).flags.h = true ↔ (a &&& 0xF).toNat < (b &&& 0xF).toNat + c.toNat) ∧
      ((sub8 a b c).flags.c = true ↔ a.toNat < b.toNat + c.toNat) ∧
      ((sub8 a b c).val.toNat : Int) = ((a.toNat : Int) - b.toNat - c.toNat) % 256

/-- HL becomes (HL + rr) mod 65536 for rr BC, DE, HL or SP; H when the low twelve bits sum above 0xFFF, C when the sum is
above 0xFFFF; Z and everything but HL and F as before. (R173, R188) -/
def Obligations.AddIntoHl : Prop :=
  ∀ (p : Reg16) (s : State),
    EncodedAs [opByte 0 (2 * p.code + 1) 1] (.addHlRr p) ∧
      Completes (.addHlRr p) s 2 (fun t =>
        (t.getWord .hl).toNat = ((s.getWord .hl).toNat + (s.readR16 p).toNat) % 65536 ∧
          FlagsAre t (s.flagZ = true) False ((s.getWord .hl).toNat % 4096 + (s.readR16 p).toNat % 4096 > 4095)
            ((s.getWord .hl).toNat + (s.readR16 p).toNat > 65535) ∧
          LowBitsKept s t ∧ OtherRegs [.h, .l] s t ∧ Quiet s t ∧ SameMem s t)

/-- After an addition (N 0): plus 0x60 if C or A > 0x99, which also sets C, plus 0x06 if H or the low nibble is above 9;
after a subtraction (N 1): minus 0x60 if C, minus 0x06 if H, C kept; modulo 256, Z from the result, N kept, H 0;
everything but A and F as before. (R190) -/
def Obligations.DecimalAdjustFollowsTheAlgorithm : Prop :=
  ∀ s : State,
    EncodedAs [0x27] .daa ∧
      Completes .daa s 1 (fun t =>
        (if s.flagN then
            (t.a.toNat : Int) = ((s.a.toNat : Int) - (if s.flagC then 0x60 else 0) - (if s.flagH then 0x06 else 0)) % 256
          else
            t.a.toNat = (s.a.toNat + (if s.flagC ∨ s.a.toNat > 0x99 then 0x60 else 0)
              + (if s.flagH ∨ s.a.toNat % 16 > 9 then 0x06 else 0)) % 256) ∧
          FlagsAre t (t.a = 0) (s.flagN = true) False
            (s.flagC = true ∨ (s.flagN = false ∧ s.a.toNat > 0x99)) ∧
          LowBitsKept s t ∧ OtherRegs [.a] s t ∧ Quiet s t ∧ SameMem s t)

/-- For all x, y below 100 and every state whose A holds x in packed decimal: after ADD A,n8 of y and DAA, A holds (x + y)
mod 100 and C is set exactly when x + y is at least 100; after SUB n8 of y and DAA, A holds (x - y) mod 100 and C is
set exactly when x < y. (R178, R184, R190) -/
def Obligations.DecimalAdjustGivesDecimalSumsAndDifferences : Prop :=
  ∀ (x y : Fin 100) (s : State),
    (∃ t u, exec (.addAN8 (bcd y.val)) { s with a := bcd x.val } = .next t ∧ exec .daa t = .next u ∧
        u.a = bcd ((x.val + y.val) % 100) ∧ (u.flagC = true ↔ x.val + y.val ≥ 100)) ∧
      ∃ t u, exec (.subN8 (bcd y.val)) { s with a := bcd x.val } = .next t ∧ exec .daa t = .next u ∧
        u.a = bcd ((x.val + 100 - y.val) % 100) ∧ (u.flagC = true ↔ x.val < y.val)

/-- For register, (HL) and immediate operands: each bit of A becomes the and, exclusive or, or or of its old value and the
operand bit; F becomes Z, 0, H, 0 with F[3:0] zero; every other register, SP, PC, the control state and memory are as
before. (R195, R196, R197, R198, R199, R200, R201, R202, R203) -/
def Obligations.AndXorOrIntoA : Prop :=
  ∀ (rs : Reg8) (n : Byte) (s : State),
    (EncodedAs [opByte 2 4 rs.code] (.andR rs) ∧ EncodedAs [0xA6] .andHl ∧ EncodedAs [0xE6, n] (.andN8 n) ∧
        EncodedAs [opByte 2 5 rs.code] (.xorR rs) ∧ EncodedAs [0xAE] .xorHl ∧ EncodedAs [0xEE, n] (.xorN8 n) ∧
        EncodedAs [opByte 2 6 rs.code] (.orR rs) ∧ EncodedAs [0xB6] .orHl ∧ EncodedAs [0xF6, n] (.orN8 n)) ∧
      (∀ p ∈ [(Instr.andR rs, s.readR8 rs, 1), (.andHl, s.readByte s.hl, 2), (.andN8 n, n, 2)],
        Completes p.1 s p.2.2 (fun t =>
          (∀ i : Fin 8, t.a.getLsbD i = (s.a.getLsbD i && p.2.1.getLsbD i)) ∧ FlagsAre t (t.a = 0) False True False ∧
            t.LowNibbleZero ∧ OtherRegs [.a] s t ∧ Quiet s t ∧ SameMem s t)) ∧
      (∀ p ∈ [(Instr.xorR rs, s.readR8 rs, 1), (.xorHl, s.readByte s.hl, 2), (.xorN8 n, n, 2)],
        Completes p.1 s p.2.2 (fun t =>
          (∀ i : Fin 8, t.a.getLsbD i = (s.a.getLsbD i != p.2.1.getLsbD i)) ∧ FlagsAre t (t.a = 0) False False False ∧
            t.LowNibbleZero ∧ OtherRegs [.a] s t ∧ Quiet s t ∧ SameMem s t)) ∧
      ∀ p ∈ [(Instr.orR rs, s.readR8 rs, 1), (.orHl, s.readByte s.hl, 2), (.orN8 n, n, 2)],
        Completes p.1 s p.2.2 (fun t =>
          (∀ i : Fin 8, t.a.getLsbD i = (s.a.getLsbD i || p.2.1.getLsbD i)) ∧ FlagsAre t (t.a = 0) False False False ∧
            t.LowNibbleZero ∧ OtherRegs [.a] s t ∧ Quiet s t ∧ SameMem s t)

/-- CPL: A is inverted, N and H 1, Z and C kept. SCF: C 1, N and H 0, Z kept. CCF: C inverted, N and H 0, Z kept.
Everything else is as before. (R207, R208, R209) -/
def Obligations.ComplementAndCarryInstructions : Prop :=
  ∀ s : State,
    (EncodedAs [0x2F] .cpl ∧ EncodedAs [0x37] .scf ∧ EncodedAs [0x3F] .ccf) ∧
      Completes .cpl s 1 (fun t =>
        t.a = ~~~s.a ∧ FlagsAre t (s.flagZ = true) True True (s.flagC = true) ∧ LowBitsKept s t ∧ OtherRegs [.a] s t ∧
          Quiet s t ∧ SameMem s t) ∧
      Completes .scf s 1 (fun t =>
        FlagsAre t (s.flagZ = true) False False True ∧ LowBitsKept s t ∧ OtherRegs [] s t ∧ Quiet s t ∧ SameMem s t) ∧
      Completes .ccf s 1 (fun t =>
        FlagsAre t (s.flagZ = true) False False (s.flagC = false) ∧ LowBitsKept s t ∧ OtherRegs [] s t ∧ Quiet s t ∧
          SameMem s t)

/-- JR adds the signed displacement to the PC past its operand modulo 65536, JP sets the address, JP HL sets HL; a
conditional jump whose condition fails leaves PC past its operands with the not-taken count; NZ holds iff F.Z (bit 7
of F) is 0, Z iff it is 1, NC iff F.C (bit 4) is 0, C iff it is 1, for the field values 0 to 3; nothing but PC
changes. (R97, R210, R211, R212, R213, R214) -/
def Obligations.Jumps : Prop :=
  ∀ (cc : Cond) (e : Byte) (a : Word) (s : State),
    (EncodedAs [0x18, e] (.jrE8 e) ∧ EncodedAs [opByte 0 (4 + cc.code) 0, e] (.jrCcE8 cc e) ∧
        EncodedAs [0xC3, loByte a, hiByte a] (.jpA16 a) ∧
        EncodedAs [opByte 3 cc.code 2, loByte a, hiByte a] (.jpCcA16 cc a) ∧ EncodedAs [0xE9] .jpHl) ∧
      ((s.cond (condOf 0) = true ↔ s.f.getLsbD 7 = false) ∧ (s.cond (condOf 1) = true ↔ s.f.getLsbD 7 = true) ∧
        (s.cond (condOf 2) = true ↔ s.f.getLsbD 4 = false) ∧ (s.cond (condOf 3) = true ↔ s.f.getLsbD 4 = true)) ∧
      ([Cond.nz, .z, .nc, .c].map Cond.code = [0, 1, 2, 3] ∧ condOf cc.code = cc) ∧
      ∀ p ∈ [(Instr.jrE8 e, ((s.pc.toNat : Int) + e.toInt) % 65536, 3),
          (.jrCcE8 cc e, if s.cond cc then ((s.pc.toNat : Int) + e.toInt) % 65536 else s.pc.toNat,
            if s.cond cc then 3 else 2),
          (.jpA16 a, (a.toNat : Int), 4),
          (.jpCcA16 cc a, if s.cond cc then (a.toNat : Int) else s.pc.toNat, if s.cond cc then 4 else 3),
          (.jpHl, ((s.getWord .hl).toNat : Int), 1)],
        Completes p.1 s p.2.2 (fun t =>
          (t.pc.toNat : Int) = p.2.1 ∧ OtherRegs [] s t ∧ t.f = s.f ∧ t.sp = s.sp ∧ SameControl s t ∧ SameMem s t)

/-- The pushed PC (already past the instruction) lies high byte at SP-1, low byte at SP-2, each through the address
decoder; SP falls by two; PC is a16, or 8t for RST t; untaken, nothing but the reported count changes; registers,
flags and control state are as before. (R222, R223, R227) -/
def Obligations.CallsAndRestart : Prop :=
  ∀ (cc : Cond) (a : Word) (k : Fin 8) (s : State),
    (EncodedAs [0xCD, loByte a, hiByte a] (.callA16 a) ∧
        EncodedAs [opByte 3 cc.code 4, loByte a, hiByte a] (.callCcA16 cc a) ∧
        EncodedAs [opByte 3 k.val 7] (.rst k.val)) ∧
      (∀ p ∈ [(Instr.callA16 a, a, 6), (.rst k.val, BitVec.ofNat 16 (8 * k.val), 4)],
        Completes p.1 s p.2.2 (fun t =>
          (∀ x, t.readByte x = s.cellAfterPush s.pc x) ∧ t.sp = s.sp - 2 ∧ t.pc = p.2.1 ∧ OtherRegs [] s t ∧
            t.f = s.f ∧ SameControl s t)) ∧
      (if s.cond cc then
        Completes (.callCcA16 cc a) s 6 (fun t =>
          (∀ x, t.readByte x = s.cellAfterPush s.pc x) ∧ t.sp = s.sp - 2 ∧ t.pc = a ∧ OtherRegs [] s t ∧
            t.f = s.f ∧ SameControl s t)
      else
        Completes (.callCcA16 cc a) s 3 (fun t => OtherRegs [] s t ∧ t.f = s.f ∧ Quiet s t ∧ SameMem s t))

/-- PC becomes 256 times the byte at SP+1 plus the byte at SP, SP rises by two, memory, registers and flags are as before;
IME becomes 1 for RETI and is kept otherwise; untaken, nothing but the reported count changes. (R224, R225, R226) -/
def Obligations.Returns : Prop :=
  ∀ (cc : Cond) (s : State),
    (EncodedAs [0xC9] .ret ∧ EncodedAs [opByte 3 cc.code 0] (.retCc cc) ∧ EncodedAs [0xD9] .reti) ∧
      (∀ p ∈ [(Instr.ret, s.ime, 4), (.reti, true, 4)],
        Completes p.1 s p.2.2 (fun t =>
          t.pc.toNat = 256 * (s.readByte (s.sp + 1)).toNat + (s.readByte s.sp).toNat ∧ t.sp = s.sp + 2 ∧
            t.ime = p.2.1 ∧ OtherRegs [] s t ∧ t.f = s.f ∧ SameControl { s with ime := p.2.1 } t ∧ SameMem s t)) ∧
      (if s.cond cc then
        Completes (.retCc cc) s 5 (fun t =>
          t.pc.toNat = 256 * (s.readByte (s.sp + 1)).toNat + (s.readByte s.sp).toNat ∧ t.sp = s.sp + 2 ∧
            OtherRegs [] s t ∧ t.f = s.f ∧ SameControl s t ∧ SameMem s t)
      else
        Completes (.retCc cc) s 2 (fun t => OtherRegs [] s t ∧ t.f = s.f ∧ Quiet s t ∧ SameMem s t))

/-- PUSH of BC, DE, HL and AF: every cell reached by the store at SP-2 holds the low half, else every cell reached by the
store at SP-1 holds the high half, every other byte is as before; SP falls by two; every register, the flags, PC and
the control state are as before. (R220, R228, R229) -/
def Obligations.PushesOfPairs : Prop :=
  ∀ (p : StackPair) (s : State),
    (EncodedAs [opByte 3 (2 * p.code) 5] (.pushRr p) ∧ EncodedAs [0xF5] .pushAf) ∧
      ∀ q ∈ [(Instr.pushRr p, s.readStackPair p), (.pushAf, s.getWord .af)],
        Completes q.1 s 4 (fun t =>
          (∀ x, t.readByte x =
              if storeHits (s.sp - 2) x then BitVec.ofNat 8 (q.2.toNat % 256)
              else if storeHits (s.sp - 1) x then BitVec.ofNat 8 (q.2.toNat / 256)
              else s.readByte x) ∧
            t.sp = s.sp - 2 ∧ t.pc = s.pc ∧ OtherRegs [] s t ∧ t.f = s.f ∧ SameControl s t)

/-- POP of BC, DE, HL: the pair is 256 times the byte at SP+1 plus the byte at SP; POP AF: A is the byte at SP+1 and F the
byte at SP with bits 3..0 cleared; SP rises by two; every other register, PC, the control state and memory are as
before, the flags too except for POP AF. (R230, R231) -/
def Obligations.PopsOfPairs : Prop :=
  ∀ (p : StackPair) (s : State),
    (EncodedAs [opByte 3 (2 * p.code) 1] (.popRr p) ∧ EncodedAs [0xF1] .popAf) ∧
      Completes (.popRr p) s 3 (fun t =>
        (t.readStackPair p).toNat = 256 * (s.readByte (s.sp + 1)).toNat + (s.readByte s.sp).toNat ∧
          (∀ q, q ≠ p → t.readStackPair q = s.readStackPair q) ∧ t.a = s.a ∧ t.f = s.f ∧ t.sp = s.sp + 2 ∧
          t.pc = s.pc ∧ SameControl s t ∧ SameMem s t) ∧
      Completes .popAf s 3 (fun t =>
        t.a = s.readByte (s.sp + 1) ∧ t.f = s.readByte s.sp &&& 0xF0 ∧ OtherRegs [.a] s t ∧ t.sp = s.sp + 2 ∧
          t.pc = s.pc ∧ SameControl s t ∧ SameMem s t)

/-- Each of the four completes with one M-cycle reported and changes nothing but, in turn, nothing, IME to 0, IME to 1,
halted to 1. (R240, R241, R242, R243) -/
def Obligations.NopDiEiAndHalt : Prop :=
  ∀ s : State,
    (EncodedAs [0x00] .nop ∧ EncodedAs [0xF3] .di ∧ EncodedAs [0xFB] .ei ∧ EncodedAs [0x76] .halt) ∧
      exec .nop s = .next { s with elapsed := some 1 } ∧
      exec .di s = .next { s with elapsed := some 1, ime := false } ∧
      exec .ei s = .next { s with elapsed := some 1, ime := true } ∧
      exec .halt s = .next { s with elapsed := some 1, halted := true }

/-- With PC one past the opcode byte, the next state is the same but for the fatal record (kind, opcode, address of the
opcode byte) and the output, which is none. (R244, R246, R304) -/
def Obligations.StopAndIllegalBytesRaiseTheFatalError : Prop :=
  ∀ (s : State),
    EncodedAs [0x10] .stop ∧
      exec .stop s = .next { s with fatal := some ⟨.unimplemented, 0x10, s.pc - 1⟩, elapsed := none } ∧
      ∀ p ∈ [(Instr.illegalD3, (0xD3 : Byte)), (.illegalDB, 0xDB), (.illegalDD, 0xDD), (.illegalE3, 0xE3), (.illegalE4, 0xE4),
          (.illegalEB, 0xEB), (.illegalEC, 0xEC), (.illegalED, 0xED), (.illegalF4, 0xF4), (.illegalFC, 0xFC),
          (.illegalFD, 0xFD)],
        EncodedAs [p.2] p.1 ∧
          exec p.1 s = .next { s with fatal := some ⟨.illegal, p.2, s.pc - 1⟩, elapsed := none }

/-- For every second byte: the two bytes decode to the second-page instruction, a two-byte one; the meaning of the prefix
row answers a next state, and it is the one the selected instruction answers. (R245) -/
def Obligations.PrefixRunsTheSelectedInstruction : Prop :=
  ∀ (op2 : Byte) (s : State),
    EncodedAs [0xCB, op2] (decodeCb op2) ∧ (decodeCb op2).length = 2 ∧
      ∃ t, exec (.prefixCb op2) s = .next t ∧ exec (decodeCb op2) s = .next t

/-- Each bit of A is the bit the rotate moves there (the carry flag at the open end for RLA and RRA); C is the bit moved
out, Z, N, H and F[3:0] are 0 whatever the result; everything but A and F is as before. (R250, R251, R252, R253) -/
def Obligations.OneByteRotatesOfA : Prop :=
  ∀ s : State,
    (EncodedAs [0x07] .rlca ∧ EncodedAs [0x0F] .rrca ∧ EncodedAs [0x17] .rla ∧ EncodedAs [0x1F] .rra) ∧
      ∀ p ∈ [(Instr.rlca, Rotate.rlc), (.rrca, .rrc), (.rla, .rl), (.rra, .rr)],
        Completes p.1 s 1 (fun t =>
          (∀ i : Fin 8, t.a.getLsbD i = rotatedBit p.2 s.a s.flagC i) ∧
            FlagsAre t False False False (rotatedOut p.2 s.a = true) ∧ t.LowNibbleZero ∧ OtherRegs [.a] s t ∧
            Quiet s t ∧ SameMem s t)

/-- RLC, RRC, RL, RR, SLA, SRA, SWAP and SRL of every register: each result bit as the rule places it, F = {result = 0, 0,
0, the bit moved out} (0 for SWAP) with F[3:0] zero; every other register, SP, PC, the control state and memory are as
before. (R255, R257, R259, R261, R263, R265, R267, R269) -/
def Obligations.RotatesAndShiftsOfARegister : Prop :=
  ∀ (r : Reg8) (s : State),
    ∀ p ∈ [(Instr.rlcR r, Rotate.rlc), (.rrcR r, .rrc), (.rlR r, .rl), (.rrR r, .rr), (.slaR r, .sla), (.sraR r, .sra),
        (.swapR r, .swap), (.srlR r, .srl)],
      EncodedAs [0xCB, opByte 0 p.2.code r.code] p.1 ∧
        Completes p.1 s 2 (fun t =>
          (∀ i : Fin 8, (t.readR8 r).getLsbD i = rotatedBit p.2 (s.readR8 r) s.flagC i) ∧
            FlagsAre t (t.readR8 r = 0) False False (rotatedOut p.2 (s.readR8 r) = true) ∧ t.LowNibbleZero ∧
            OtherRegs [r] s t ∧ Quiet s t ∧ SameMem s t)

/-- There is a result byte r with each bit as the rule places it: every cell the store at HL reaches holds r, every other
byte is as before, F = {r = 0, 0, 0, the bit moved out} with F[3:0] zero; every register, SP, PC and the control state
are as before. (R256, R258, R260, R262, R264, R266, R268, R270) -/
def Obligations.RotatesAndShiftsOfTheByteAtHl : Prop :=
  ∀ s : State,
    ∀ p ∈ [(Instr.rlcHl, Rotate.rlc), (.rrcHl, .rrc), (.rlHl, .rl), (.rrHl, .rr), (.slaHl, .sla), (.sraHl, .sra),
        (.swapHl, .swap), (.srlHl, .srl)],
      EncodedAs [0xCB, opByte 0 p.2.code 6] p.1 ∧
        Completes p.1 s 4 (fun t =>
          ∃ r : Byte, (∀ i : Fin 8, r.getLsbD i = rotatedBit p.2 (s.readByte s.hl) s.flagC i) ∧
            Stored s.hl r s t ∧ FlagsAre t (r = 0) False False (rotatedOut p.2 (s.readByte s.hl) = true) ∧
            t.LowNibbleZero ∧ OtherRegs [] s t ∧ Quiet s t)

/-- For every bit index 0..7, on a register and on the byte at HL: Z exactly when the bit is 0, N 0, H 1, C kept;
registers, memory, SP, PC and the control state are as before. (R271, R272) -/
def Obligations.BitTests : Prop :=
  ∀ (k : Fin 8) (r : Reg8) (s : State),
    (EncodedAs [0xCB, opByte 1 k.val r.code] (.bitBR k.val r) ∧ EncodedAs [0xCB, opByte 1 k.val 6] (.bitBHl k.val)) ∧
      ∀ p ∈ [(Instr.bitBR k.val r, s.readR8 r, 2), (.bitBHl k.val, s.readByte s.hl, 3)],
        Completes p.1 s p.2.2 (fun t =>
          FlagsAre t (p.2.1.getLsbD k.val = false) False True (s.flagC = true) ∧ LowBitsKept s t ∧ OtherRegs [] s t ∧
            Quiet s t ∧ SameMem s t)

/-- For every bit index 0..7: the result byte has bit b cleared or set and every other bit as before; on a register it is
written there, on the byte at HL every cell the store reaches holds it; everything else, the flags included, is as
before. (R273, R274, R275, R276) -/
def Obligations.BitResetAndSet : Prop :=
  ∀ (k : Fin 8) (r : Reg8) (s : State),
    (EncodedAs [0xCB, opByte 2 k.val r.code] (.resBR k.val r) ∧ EncodedAs [0xCB, opByte 2 k.val 6] (.resBHl k.val) ∧
        EncodedAs [0xCB, opByte 3 k.val r.code] (.setBR k.val r) ∧ EncodedAs [0xCB, opByte 3 k.val 6] (.setBHl k.val)) ∧
      (∀ p ∈ [(Instr.resBR k.val r, false), (.setBR k.val r, true)],
        Completes p.1 s 2 (fun t =>
          (∀ i : Fin 8, (t.readR8 r).getLsbD i = if i = k then p.2 else (s.readR8 r).getLsbD i) ∧
            OtherRegs [r] s t ∧ t.f = s.f ∧ Quiet s t ∧ SameMem s t)) ∧
      ∀ p ∈ [(Instr.resBHl k.val, false), (.setBHl k.val, true)],
        Completes p.1 s 4 (fun t =>
          ∃ v : Byte, (∀ i : Fin 8, v.getLsbD i = if i = k then p.2 else (s.readByte s.hl).getLsbD i) ∧
            Stored s.hl v s t ∧ OtherRegs [] s t ∧ t.f = s.f ∧ Quiet s t)

/-- For every instruction and state exec answers a next state whose output is the table's count for the instruction and
for whether its condition held (none for STOP and the illegal bytes); every count is between 1 and 6. No bytes decode
to a term with a bit index or RST target of 8 or more; that exec answers such a term too, with the same count, is the
model's choice (log 12). (R369, R370) -/
def Obligations.CycleCountsAreTableCY : Prop :=
  (∀ (i : Instr) (s : State), ∃ t, exec i s = .next t ∧ t.elapsed = mcycles i (s.taken i)) ∧
    ∀ (i : Instr) (b : Bool) (m : Nat), mcycles i b = some m → 1 ≤ m ∧ m ≤ 6
end

