-- ==== Sys2Proof/Laws/Bits.lean ====
section
/-! SUPPORT. The laws of the byte-order helpers and the values of the parameters. -/

namespace Sys2Proof.Machine

@[simp] theorem hiByte_mkWord (x y : Byte) : hiByte (mkWord x y) = x := by
  apply BitVec.eq_of_getLsbD_eq
  intro i hi
  have h : ¬ (8 + i < 8) := by omega
  simp [hiByte, mkWord, zext16, hi, show 8 + i < 16 by omega]

@[simp] theorem loByte_mkWord (x y : Byte) : loByte (mkWord x y) = y := by
  apply BitVec.eq_of_getLsbD_eq
  intro i hi
  simp [loByte, mkWord, zext16, hi, show i < 16 by omega]

@[simp] theorem mkWord_hiByte_loByte (w : Word) : mkWord (hiByte w) (loByte w) = w := by
  apply BitVec.eq_of_getLsbD_eq
  intro i hi
  by_cases h8 : i < 8
  · simp [hiByte, loByte, mkWord, zext16, h8, hi]
  · have h2 : 8 + (i - 8) = i := by omega
    simp [hiByte, loByte, mkWord, zext16, h8, hi, h2, show i - 8 < 8 by omega]

/-- A word's number from its halves' numbers. -/
theorem mkWord_toNat (x y : Byte) : (mkWord x y).toNat = 256 * x.toNat + y.toNat := by
  have hx := x.isLt
  have hy := y.isLt
  have h1 : (zext16 x <<< 8).toNat = 256 * x.toNat := by
    simp only [zext16, BitVec.toNat_shiftLeft, BitVec.toNat_setWidth]
    rw [Nat.shiftLeft_eq]
    omega
  have h2 : (zext16 y).toNat = y.toNat := by
    simp only [zext16, BitVec.toNat_setWidth]
    omega
  unfold mkWord
  rw [BitVec.toNat_or, h1, h2, show 256 * x.toNat = 2 ^ 8 * x.toNat by rfl, ← Nat.two_pow_add_eq_or_of_lt hy]

@[simp] theorem params_echoLo : params.echoLo = 0xE000 := rfl
@[simp] theorem params_echoHi : params.echoHi = 0xFE00 := rfl
@[simp] theorem params_echoOffset : params.echoOffset = 0x2000 := rfl
@[simp] theorem params_unusableLo : params.unusableLo = 0xFEA0 := rfl
@[simp] theorem params_unusableHi : params.unusableHi = 0xFEFF := rfl
@[simp] theorem params_romWriteProtect : params.romWriteProtect = false := rfl
@[simp] theorem params_romHi : params.romHi = 0x8000 := rfl
@[simp] theorem params_highPage : params.highPage = 0xFF00 := rfl
@[simp] theorem params_joypAddr : params.joypAddr = 0xFF00 := rfl
@[simp] theorem params_divAddr : params.divAddr = 0xFF04 := rfl
@[simp] theorem params_timaAddr : params.timaAddr = 0xFF05 := rfl
@[simp] theorem params_tmaAddr : params.tmaAddr = 0xFF06 := rfl
@[simp] theorem params_tacAddr : params.tacAddr = 0xFF07 := rfl
@[simp] theorem params_ifAddr : params.ifAddr = 0xFF0F := rfl
@[simp] theorem params_ieAddr : params.ieAddr = 0xFFFF := rfl
@[simp] theorem params_divPeriod : params.divPeriod = 256 := rfl
@[simp] theorem params_timerPeriod (n : Nat) : params.timerPeriod n = timerPeriods n := rfl
@[simp] theorem params_tacEnableBit : params.tacEnableBit = 2 := rfl
@[simp] theorem params_nInt : params.nInt = 5 := rfl
@[simp] theorem params_vector (n : Nat) : params.vector n = vectors n := rfl
@[simp] theorem params_timerIntBit : params.timerIntBit = 2 := rfl
@[simp] theorem params_intDispatchMCycles : params.intDispatchMCycles = 0 := rfl
@[simp] theorem params_mcycles (i : Instr) (taken : Bool) : params.mcycles i taken = tableCY i taken := rfl
@[simp] theorem params_haltIdleMCycles : params.haltIdleMCycles = 1 := rfl

/-- Every timer period is positive and at most 1024. -/
theorem timerPeriods_bounds (n : Nat) : 0 < timerPeriods n ∧ timerPeriods n ≤ 1024 := by
  unfold timerPeriods
  split <;> decide

end Sys2Proof.Machine
end

