-- ==== Sys2Proof/Laws/Decode.lean ====
section
/-! SUPPORT. How the decoder on a list follows from the decoder on three bytes, for each instruction length; the fields of a
composed opcode byte. -/

namespace Sys2Proof.Machine

/-- The decoder's answer once the instruction and its length are known (30_encoding.md R99, R104). -/
theorem decode_cons {op : Byte} {rest : List Byte} {i : Instr}
    (h : decodeBytes op (rest.getD 0 0) (rest.getD 1 0) = i) (hl : i.length ≤ rest.length + 1) :
    decode (op :: rest) = .ok (i, (op :: rest).drop i.length) := by
  simp only [decode, h, if_pos hl]

theorem encodedAs_one {op : Byte} {i : Instr} (hl : i.length = 1) (h : ∀ b1 b2, decodeBytes op b1 b2 = i) :
    EncodedAs [op] i := by
  intro rest
  have := decode_cons (rest := rest) (h _ _) (by omega)
  rwa [hl] at this

theorem encodedAs_two {op b1 : Byte} {i : Instr} (hl : i.length = 2) (h : ∀ b2, decodeBytes op b1 b2 = i) :
    EncodedAs [op, b1] i := by
  intro rest
  have := decode_cons (rest := b1 :: rest) (h _) (by simp only [List.length_cons]; omega)
  rwa [hl] at this

theorem encodedAs_three {op b1 b2 : Byte} {i : Instr} (hl : i.length = 3) (h : decodeBytes op b1 b2 = i) :
    EncodedAs [op, b1, b2] i := by
  intro rest
  have := decode_cons (rest := b1 :: b2 :: rest) h (by simp only [List.length_cons]; omega)
  rwa [hl] at this

/-- Conversely, what the list decoder answers is what the three bytes decode to. -/
theorem decode_three {b0 b1 b2 : Byte} {i : Instr} {rest : List Byte} (h : decode [b0, b1, b2] = .ok (i, rest)) :
    decodeBytes b0 b1 b2 = i := by
  simp only [decode] at h
  split at h
  · injection h with h
    injection h
  · exact absurd h (by simp)

/-- The fields of a composed opcode byte are the fields it was composed of (table FD). -/
theorem fields_opByte {x y z : Nat} (hx : x < 4) (hy : y < 8) (hz : z < 8) :
    fieldX (opByte x y z) = x ∧ fieldY (opByte x y z) = y ∧ fieldZ (opByte x y z) = z := by
  have h : (opByte x y z).toNat = 64 * x + 8 * y + z := by
    show (64 * x + 8 * y + z) % 256 = _
    omega
  refine ⟨?_, ?_, ?_⟩ <;> simp only [fieldX, fieldY, fieldZ, h] <;> omega

/-- An opcode byte is composed of its fields (table FD). -/
theorem opByte_fields (op : Byte) : opByte (fieldX op) (fieldY op) (fieldZ op) = op := by
  apply BitVec.eq_of_toNat_eq
  have h := op.isLt
  show (64 * (op.toNat / 64) + 8 * (op.toNat / 8 % 8) + op.toNat % 8) % 256 = op.toNat
  omega

theorem regOf_code (r : Reg8) : regOf r.code = some r := by
  cases r <;> rfl

theorem pairOf_code (p : Reg16) : pairOf p.code = p := by
  cases p <;> rfl

theorem stackPairOf_code (p : StackPair) : stackPairOf p.code = some p := by
  cases p <;> rfl

theorem condOf_code (cc : Cond) : condOf cc.code = cc := by
  cases cc <;> rfl

theorem code_bounds (r : Reg8) (p : Reg16) (q : StackPair) (cc : Cond) :
    r.code < 8 ∧ p.code < 4 ∧ q.code < 3 ∧ cc.code < 4 := by
  refine ⟨?_, ?_, ?_, ?_⟩
  · cases r <;> decide
  · cases p <;> decide
  · cases q <;> decide
  · cases cc <;> decide

end Sys2Proof.Machine
end

