-- ==== Sys2Proof/Laws/Memory.lean ====
section
/-! SUPPORT. The laws of memory as data: a read after a write, and the canonical form kept by every write. -/

namespace Sys2Proof.Machine.Memory

theorem read_erase_same (m : Memory) (a : Nat) : (m.erase a).read a = unlisted a := by
  induction m with
  | nil => rfl
  | cons p rest ih =>
    obtain ⟨k, w⟩ := p
    by_cases h : k = a
    · simpa [erase, h] using ih
    · simpa [erase, read, h] using ih

theorem read_erase_other (m : Memory) {a x : Nat} (hx : x ≠ a) : (m.erase a).read x = m.read x := by
  induction m with
  | nil => rfl
  | cons p rest ih =>
    obtain ⟨k, w⟩ := p
    by_cases h : k = a
    · have hk : k ≠ x := fun e => hx (e.symm.trans h)
      simpa [erase, read, h, Ne.symm hx] using ih
    · by_cases hk : k = x
      · simp [erase, read, hk, hx]
      · simpa [erase, read, h, hk] using ih

theorem not_mem_erase (m : Memory) (a : Nat) : ∀ p ∈ m.erase a, p.1 ≠ a := by
  induction m with
  | nil => simp [erase]
  | cons p rest ih =>
    obtain ⟨k, w⟩ := p
    by_cases h : k = a
    · simpa [erase, h] using ih
    · intro q hq
      simp only [erase, h, if_false, List.mem_cons] at hq
      rcases hq with rfl | hq
      · exact h
      · exact ih q hq

theorem read_insert (m : Memory) (a x : Nat) (v : Byte) (hm : ∀ p ∈ m, p.1 ≠ a) :
    (m.insert a v).read x = if x = a then v else m.read x := by
  induction m with
  | nil =>
    by_cases hx : x = a
    · simp [insert, read, hx]
    · simp [insert, read, hx, Ne.symm hx]
  | cons p rest ih =>
    obtain ⟨k, w⟩ := p
    have hk : k ≠ a := hm (k, w) (by simp)
    have ih := ih (fun q hq => hm q (by simp [hq]))
    by_cases hlt : a < k
    · by_cases hx : x = a
      · simp [insert, read, hlt, hx]
      · simp [insert, read, hlt, hx, Ne.symm hx]
    · by_cases hkx : k = x
      · have hxa : x ≠ a := hkx ▸ hk
        subst hkx
        simp [insert, read, hlt, hxa]
      · simp [insert, read, hlt, hkx, ih]

/-- A read after a write: the written value at the written address, everything else as before. -/
theorem read_write (m : Memory) (a x : Nat) (v : Byte) : (m.write a v).read x = if x = a then v else m.read x := by
  unfold write
  by_cases hv : v = unlisted a
  · rw [if_pos hv]
    by_cases hx : x = a
    · rw [if_pos hx, hx, read_erase_same, hv]
    · rw [if_neg hx, read_erase_other m hx]
  · rw [if_neg hv, read_insert _ _ _ _ (not_mem_erase m a)]
    by_cases hx : x = a
    · simp [hx]
    · simp [hx, read_erase_other m hx]

theorem mem_of_mem_erase (m : Memory) (a : Nat) : ∀ p ∈ m.erase a, p ∈ m := by
  induction m with
  | nil => simp [erase]
  | cons p rest ih =>
    obtain ⟨k, w⟩ := p
    intro q hq
    by_cases h : k = a
    · simp only [erase, h, if_true] at hq
      exact List.mem_cons_of_mem _ (ih q hq)
    · simp only [erase, h, if_false, List.mem_cons] at hq
      rcases hq with rfl | hq
      · exact List.mem_cons_self
      · exact List.mem_cons_of_mem _ (ih q hq)

theorem mem_insert (m : Memory) (a : Nat) (v : Byte) : ∀ p ∈ m.insert a v, p = (a, v) ∨ p ∈ m := by
  induction m with
  | nil => simp [insert]
  | cons p rest ih =>
    obtain ⟨k, w⟩ := p
    intro q hq
    by_cases h : a < k
    · simp only [insert, h, if_true, List.mem_cons] at hq
      rcases hq with rfl | hq | hq <;> simp_all
    · simp only [insert, h, if_false, List.mem_cons] at hq
      rcases hq with rfl | hq
      · simp
      · rcases ih q hq with h' | h' <;> simp [h']

theorem pairwise_erase (m : Memory) (a : Nat) (hm : m.Pairwise (fun p q => p.1 < q.1)) :
    (m.erase a).Pairwise (fun p q => p.1 < q.1) := by
  induction m with
  | nil => simp [erase]
  | cons p rest ih =>
    obtain ⟨k, w⟩ := p
    rw [List.pairwise_cons] at hm
    by_cases h : k = a
    · simpa [erase, h] using ih hm.2
    · simp only [erase, h, if_false, List.pairwise_cons]
      exact ⟨fun q hq => hm.1 q (mem_of_mem_erase rest a q hq), ih hm.2⟩

theorem pairwise_insert (m : Memory) (a : Nat) (v : Byte) (hm : m.Pairwise (fun p q => p.1 < q.1))
    (ha : ∀ p ∈ m, p.1 ≠ a) : (m.insert a v).Pairwise (fun p q => p.1 < q.1) := by
  induction m with
  | nil => simp [insert]
  | cons p rest ih =>
    obtain ⟨k, w⟩ := p
    have hk : k ≠ a := ha (k, w) (by simp)
    by_cases h : a < k
    · simp only [insert, h, if_true, List.pairwise_cons]
      rw [List.pairwise_cons] at hm
      refine ⟨?_, hm.1, hm.2⟩
      intro q hq
      rcases List.mem_cons.mp hq with rfl | hq
      · exact h
      · exact Nat.lt_trans h (hm.1 q hq)
    · rw [List.pairwise_cons] at hm
      simp only [insert, h, if_false, List.pairwise_cons]
      refine ⟨?_, ih hm.2 (fun q hq => ha q (by simp [hq]))⟩
      intro q hq
      rcases mem_insert rest a v q hq with rfl | hq
      · show k < a
        omega
      · exact hm.1 q hq

/-- Every write keeps the canonical form. -/
theorem wf_write (m : Memory) (a : Nat) (v : Byte) (hm : m.wf) (ha : a < 65536) : (m.write a v).wf := by
  obtain ⟨hp, hall⟩ := hm
  have hall' : ∀ p ∈ m.erase a, p.1 < 65536 ∧ p.2 ≠ unlisted p.1 := fun p hp => hall p (mem_of_mem_erase m a p hp)
  unfold write
  by_cases hv : v = unlisted a
  · rw [if_pos hv]
    exact ⟨pairwise_erase m a hp, hall'⟩
  · rw [if_neg hv]
    refine ⟨pairwise_insert _ _ _ (pairwise_erase m a hp) (not_mem_erase m a), ?_⟩
    intro p hp
    rcases mem_insert _ _ _ p hp with rfl | hp
    · exact ⟨ha, hv⟩
    · exact hall' p hp

/-- The empty memory, the memory of `State.reset`, is in canonical form. -/
theorem wf_nil : wf [] := by
  simp [wf]

/-- Two memories in canonical form that read alike everywhere are the same list. -/
theorem read_of_wf_lt (m : Memory) (a : Nat) (h : ∀ p ∈ m, a < p.1) : m.read a = unlisted a := by
  induction m with
  | nil => rfl
  | cons p rest ih =>
    obtain ⟨k, w⟩ := p
    have hk : a < k := h (k, w) (by simp)
    have : k ≠ a := by omega
    simpa [read, this] using ih (fun q hq => h q (by simp [hq]))

theorem ext_of_wf : ∀ (m n : Memory), m.wf → n.wf → (∀ a, m.read a = n.read a) → m = n := by
  intro m
  induction m with
  | nil =>
    intro n _ hn h
    cases n with
    | nil => rfl
    | cons p rest =>
      obtain ⟨k, w⟩ := p
      have := h k
      simp only [read, if_true] at this
      exact absurd this.symm (hn.2 (k, w) (by simp)).2
  | cons p rest ih =>
    obtain ⟨k, w⟩ := p
    intro n hm hn h
    have hmp := List.pairwise_cons.mp hm.1
    have hw : w ≠ unlisted k := (hm.2 (k, w) (by simp)).2
    have hrest : wf rest := ⟨hmp.2, fun q hq => hm.2 q (by simp [hq])⟩
    cases n with
    | nil =>
      have := h k
      simp only [read, if_true] at this
      exact absurd this hw
    | cons q rest' =>
      obtain ⟨k', w'⟩ := q
      have hnp := List.pairwise_cons.mp hn.1
      have hw' : w' ≠ unlisted k' := (hn.2 (k', w') (by simp)).2
      have hrest' : wf rest' := ⟨hnp.2, fun q hq => hn.2 q (by simp [hq])⟩
      have hk : k = k' := by
        rcases Nat.lt_trichotomy k k' with hlt | heq | hgt
        · exfalso
          have e := h k
          rw [read_of_wf_lt ((k', w') :: rest') k] at e
          · simp only [read, if_true] at e
            exact hw e
          · intro q hq
            rcases List.mem_cons.mp hq with rfl | hq
            · exact hlt
            · exact Nat.lt_trans hlt (hnp.1 q hq)
        · exact heq
        · exfalso
          have e := h k'
          rw [read_of_wf_lt ((k, w) :: rest) k'] at e
          · simp only [read, if_true] at e
            exact hw' e.symm
          · intro q hq
            rcases List.mem_cons.mp hq with rfl | hq
            · exact hgt
            · exact Nat.lt_trans hgt (hmp.1 q hq)
      subst hk
      have hww : w = w' := by simpa [read] using h k
      subst hww
      congr 1
      refine ih rest' hrest hrest' (fun a => ?_)
      by_cases ha : k = a
      · subst ha
        rw [read_of_wf_lt rest k hmp.1, read_of_wf_lt rest' k hnp.1]
      · simpa [read, ha] using h a

end Sys2Proof.Machine.Memory
end

