-- ==== Sys2Proof/Laws/State.lean ====
section
/-! SUPPORT. One lemma per field per update of the state: what each named update writes and what it leaves. -/

namespace Sys2Proof.Machine.State

/-! `poke` -/

@[simp] theorem poke_a (s : State) (x : Word) (v : Byte) : (s.poke x v).a = s.a := rfl
@[simp] theorem poke_f (s : State) (x : Word) (v : Byte) : (s.poke x v).f = s.f := rfl
@[simp] theorem poke_b (s : State) (x : Word) (v : Byte) : (s.poke x v).b = s.b := rfl
@[simp] theorem poke_c (s : State) (x : Word) (v : Byte) : (s.poke x v).c = s.c := rfl
@[simp] theorem poke_d (s : State) (x : Word) (v : Byte) : (s.poke x v).d = s.d := rfl
@[simp] theorem poke_e (s : State) (x : Word) (v : Byte) : (s.poke x v).e = s.e := rfl
@[simp] theorem poke_h (s : State) (x : Word) (v : Byte) : (s.poke x v).h = s.h := rfl
@[simp] theorem poke_l (s : State) (x : Word) (v : Byte) : (s.poke x v).l = s.l := rfl
@[simp] theorem poke_sp (s : State) (x : Word) (v : Byte) : (s.poke x v).sp = s.sp := rfl
@[simp] theorem poke_pc (s : State) (x : Word) (v : Byte) : (s.poke x v).pc = s.pc := rfl
@[simp] theorem poke_ime (s : State) (x : Word) (v : Byte) : (s.poke x v).ime = s.ime := rfl
@[simp] theorem poke_halted (s : State) (x : Word) (v : Byte) : (s.poke x v).halted = s.halted := rfl
@[simp] theorem poke_divAcc (s : State) (x : Word) (v : Byte) : (s.poke x v).divAcc = s.divAcc := rfl
@[simp] theorem poke_timaAcc (s : State) (x : Word) (v : Byte) : (s.poke x v).timaAcc = s.timaAcc := rfl
@[simp] theorem poke_fatal (s : State) (x : Word) (v : Byte) : (s.poke x v).fatal = s.fatal := rfl
@[simp] theorem poke_mem (s : State) (x : Word) (v : Byte) : (s.poke x v).mem = s.mem.write x.toNat v := rfl
@[simp] theorem poke_elapsed (s : State) (x : Word) (v : Byte) : (s.poke x v).elapsed = s.elapsed := rfl

/-! `setPc` -/

@[simp] theorem setPc_a (s : State) (t : Word) : (s.setPc t).a = s.a := rfl
@[simp] theorem setPc_f (s : State) (t : Word) : (s.setPc t).f = s.f := rfl
@[simp] theorem setPc_b (s : State) (t : Word) : (s.setPc t).b = s.b := rfl
@[simp] theorem setPc_c (s : State) (t : Word) : (s.setPc t).c = s.c := rfl
@[simp] theorem setPc_d (s : State) (t : Word) : (s.setPc t).d = s.d := rfl
@[simp] theorem setPc_e (s : State) (t : Word) : (s.setPc t).e = s.e := rfl
@[simp] theorem setPc_h (s : State) (t : Word) : (s.setPc t).h = s.h := rfl
@[simp] theorem setPc_l (s : State) (t : Word) : (s.setPc t).l = s.l := rfl
@[simp] theorem setPc_sp (s : State) (t : Word) : (s.setPc t).sp = s.sp := rfl
@[simp] theorem setPc_pc (s : State) (t : Word) : (s.setPc t).pc = t := rfl
@[simp] theorem setPc_ime (s : State) (t : Word) : (s.setPc t).ime = s.ime := rfl
@[simp] theorem setPc_halted (s : State) (t : Word) : (s.setPc t).halted = s.halted := rfl
@[simp] theorem setPc_divAcc (s : State) (t : Word) : (s.setPc t).divAcc = s.divAcc := rfl
@[simp] theorem setPc_timaAcc (s : State) (t : Word) : (s.setPc t).timaAcc = s.timaAcc := rfl
@[simp] theorem setPc_fatal (s : State) (t : Word) : (s.setPc t).fatal = s.fatal := rfl
@[simp] theorem setPc_mem (s : State) (t : Word) : (s.setPc t).mem = s.mem := rfl
@[simp] theorem setPc_elapsed (s : State) (t : Word) : (s.setPc t).elapsed = s.elapsed := rfl

/-! `setSp` -/

@[simp] theorem setSp_a (s : State) (t : Word) : (s.setSp t).a = s.a := rfl
@[simp] theorem setSp_f (s : State) (t : Word) : (s.setSp t).f = s.f := rfl
@[simp] theorem setSp_b (s : State) (t : Word) : (s.setSp t).b = s.b := rfl
@[simp] theorem setSp_c (s : State) (t : Word) : (s.setSp t).c = s.c := rfl
@[simp] theorem setSp_d (s : State) (t : Word) : (s.setSp t).d = s.d := rfl
@[simp] theorem setSp_e (s : State) (t : Word) : (s.setSp t).e = s.e := rfl
@[simp] theorem setSp_h (s : State) (t : Word) : (s.setSp t).h = s.h := rfl
@[simp] theorem setSp_l (s : State) (t : Word) : (s.setSp t).l = s.l := rfl
@[simp] theorem setSp_sp (s : State) (t : Word) : (s.setSp t).sp = t := rfl
@[simp] theorem setSp_pc (s : State) (t : Word) : (s.setSp t).pc = s.pc := rfl
@[simp] theorem setSp_ime (s : State) (t : Word) : (s.setSp t).ime = s.ime := rfl
@[simp] theorem setSp_halted (s : State) (t : Word) : (s.setSp t).halted = s.halted := rfl
@[simp] theorem setSp_divAcc (s : State) (t : Word) : (s.setSp t).divAcc = s.divAcc := rfl
@[simp] theorem setSp_timaAcc (s : State) (t : Word) : (s.setSp t).timaAcc = s.timaAcc := rfl
@[simp] theorem setSp_fatal (s : State) (t : Word) : (s.setSp t).fatal = s.fatal := rfl
@[simp] theorem setSp_mem (s : State) (t : Word) : (s.setSp t).mem = s.mem := rfl
@[simp] theorem setSp_elapsed (s : State) (t : Word) : (s.setSp t).elapsed = s.elapsed := rfl

/-! `setIme` -/

@[simp] theorem setIme_a (s : State) (v : Bool) : (s.setIme v).a = s.a := rfl
@[simp] theorem setIme_f (s : State) (v : Bool) : (s.setIme v).f = s.f := rfl
@[simp] theorem setIme_b (s : State) (v : Bool) : (s.setIme v).b = s.b := rfl
@[simp] theorem setIme_c (s : State) (v : Bool) : (s.setIme v).c = s.c := rfl
@[simp] theorem setIme_d (s : State) (v : Bool) : (s.setIme v).d = s.d := rfl
@[simp] theorem setIme_e (s : State) (v : Bool) : (s.setIme v).e = s.e := rfl
@[simp] theorem setIme_h (s : State) (v : Bool) : (s.setIme v).h = s.h := rfl
@[simp] theorem setIme_l (s : State) (v : Bool) : (s.setIme v).l = s.l := rfl
@[simp] theorem setIme_sp (s : State) (v : Bool) : (s.setIme v).sp = s.sp := rfl
@[simp] theorem setIme_pc (s : State) (v : Bool) : (s.setIme v).pc = s.pc := rfl
@[simp] theorem setIme_ime (s : State) (v : Bool) : (s.setIme v).ime = v := rfl
@[simp] theorem setIme_halted (s : State) (v : Bool) : (s.setIme v).halted = s.halted := rfl
@[simp] theorem setIme_divAcc (s : State) (v : Bool) : (s.setIme v).divAcc = s.divAcc := rfl
@[simp] theorem setIme_timaAcc (s : State) (v : Bool) : (s.setIme v).timaAcc = s.timaAcc := rfl
@[simp] theorem setIme_fatal (s : State) (v : Bool) : (s.setIme v).fatal = s.fatal := rfl
@[simp] theorem setIme_mem (s : State) (v : Bool) : (s.setIme v).mem = s.mem := rfl
@[simp] theorem setIme_elapsed (s : State) (v : Bool) : (s.setIme v).elapsed = s.elapsed := rfl

/-! `setHalted` -/

@[simp] theorem setHalted_a (s : State) (v : Bool) : (s.setHalted v).a = s.a := rfl
@[simp] theorem setHalted_f (s : State) (v : Bool) : (s.setHalted v).f = s.f := rfl
@[simp] theorem setHalted_b (s : State) (v : Bool) : (s.setHalted v).b = s.b := rfl
@[simp] theorem setHalted_c (s : State) (v : Bool) : (s.setHalted v).c = s.c := rfl
@[simp] theorem setHalted_d (s : State) (v : Bool) : (s.setHalted v).d = s.d := rfl
@[simp] theorem setHalted_e (s : State) (v : Bool) : (s.setHalted v).e = s.e := rfl
@[simp] theorem setHalted_h (s : State) (v : Bool) : (s.setHalted v).h = s.h := rfl
@[simp] theorem setHalted_l (s : State) (v : Bool) : (s.setHalted v).l = s.l := rfl
@[simp] theorem setHalted_sp (s : State) (v : Bool) : (s.setHalted v).sp = s.sp := rfl
@[simp] theorem setHalted_pc (s : State) (v : Bool) : (s.setHalted v).pc = s.pc := rfl
@[simp] theorem setHalted_ime (s : State) (v : Bool) : (s.setHalted v).ime = s.ime := rfl
@[simp] theorem setHalted_halted (s : State) (v : Bool) : (s.setHalted v).halted = v := rfl
@[simp] theorem setHalted_divAcc (s : State) (v : Bool) : (s.setHalted v).divAcc = s.divAcc := rfl
@[simp] theorem setHalted_timaAcc (s : State) (v : Bool) : (s.setHalted v).timaAcc = s.timaAcc := rfl
@[simp] theorem setHalted_fatal (s : State) (v : Bool) : (s.setHalted v).fatal = s.fatal := rfl
@[simp] theorem setHalted_mem (s : State) (v : Bool) : (s.setHalted v).mem = s.mem := rfl
@[simp] theorem setHalted_elapsed (s : State) (v : Bool) : (s.setHalted v).elapsed = s.elapsed := rfl

/-! `report` -/

@[simp] theorem report_a (s : State) (m : Option Nat) : (s.report m).a = s.a := rfl
@[simp] theorem report_f (s : State) (m : Option Nat) : (s.report m).f = s.f := rfl
@[simp] theorem report_b (s : State) (m : Option Nat) : (s.report m).b = s.b := rfl
@[simp] theorem report_c (s : State) (m : Option Nat) : (s.report m).c = s.c := rfl
@[simp] theorem report_d (s : State) (m : Option Nat) : (s.report m).d = s.d := rfl
@[simp] theorem report_e (s : State) (m : Option Nat) : (s.report m).e = s.e := rfl
@[simp] theorem report_h (s : State) (m : Option Nat) : (s.report m).h = s.h := rfl
@[simp] theorem report_l (s : State) (m : Option Nat) : (s.report m).l = s.l := rfl
@[simp] theorem report_sp (s : State) (m : Option Nat) : (s.report m).sp = s.sp := rfl
@[simp] theorem report_pc (s : State) (m : Option Nat) : (s.report m).pc = s.pc := rfl
@[simp] theorem report_ime (s : State) (m : Option Nat) : (s.report m).ime = s.ime := rfl
@[simp] theorem report_halted (s : State) (m : Option Nat) : (s.report m).halted = s.halted := rfl
@[simp] theorem report_divAcc (s : State) (m : Option Nat) : (s.report m).divAcc = s.divAcc := rfl
@[simp] theorem report_timaAcc (s : State) (m : Option Nat) : (s.report m).timaAcc = s.timaAcc := rfl
@[simp] theorem report_fatal (s : State) (m : Option Nat) : (s.report m).fatal = s.fatal := rfl
@[simp] theorem report_mem (s : State) (m : Option Nat) : (s.report m).mem = s.mem := rfl
@[simp] theorem report_elapsed (s : State) (m : Option Nat) : (s.report m).elapsed = m := rfl

/-! `addMCycles` -/

@[simp] theorem addMCycles_a (s : State) (k : Nat) : (s.addMCycles k).a = s.a := rfl
@[simp] theorem addMCycles_f (s : State) (k : Nat) : (s.addMCycles k).f = s.f := rfl
@[simp] theorem addMCycles_b (s : State) (k : Nat) : (s.addMCycles k).b = s.b := rfl
@[simp] theorem addMCycles_c (s : State) (k : Nat) : (s.addMCycles k).c = s.c := rfl
@[simp] theorem addMCycles_d (s : State) (k : Nat) : (s.addMCycles k).d = s.d := rfl
@[simp] theorem addMCycles_e (s : State) (k : Nat) : (s.addMCycles k).e = s.e := rfl
@[simp] theorem addMCycles_h (s : State) (k : Nat) : (s.addMCycles k).h = s.h := rfl
@[simp] theorem addMCycles_l (s : State) (k : Nat) : (s.addMCycles k).l = s.l := rfl
@[simp] theorem addMCycles_sp (s : State) (k : Nat) : (s.addMCycles k).sp = s.sp := rfl
@[simp] theorem addMCycles_pc (s : State) (k : Nat) : (s.addMCycles k).pc = s.pc := rfl
@[simp] theorem addMCycles_ime (s : State) (k : Nat) : (s.addMCycles k).ime = s.ime := rfl
@[simp] theorem addMCycles_halted (s : State) (k : Nat) : (s.addMCycles k).halted = s.halted := rfl
@[simp] theorem addMCycles_divAcc (s : State) (k : Nat) : (s.addMCycles k).divAcc = s.divAcc := rfl
@[simp] theorem addMCycles_timaAcc (s : State) (k : Nat) : (s.addMCycles k).timaAcc = s.timaAcc := rfl
@[simp] theorem addMCycles_fatal (s : State) (k : Nat) : (s.addMCycles k).fatal = s.fatal := rfl
@[simp] theorem addMCycles_mem (s : State) (k : Nat) : (s.addMCycles k).mem = s.mem := rfl
@[simp] theorem addMCycles_elapsed (s : State) (k : Nat) : (s.addMCycles k).elapsed = s.elapsed.map (fun m => m + k) := rfl

/-! `setA` -/

@[simp] theorem setA_a (s : State) (v : Byte) : (s.setA v).a = v := rfl
@[simp] theorem setA_f (s : State) (v : Byte) : (s.setA v).f = s.f := rfl
@[simp] theorem setA_b (s : State) (v : Byte) : (s.setA v).b = s.b := rfl
@[simp] theorem setA_c (s : State) (v : Byte) : (s.setA v).c = s.c := rfl
@[simp] theorem setA_d (s : State) (v : Byte) : (s.setA v).d = s.d := rfl
@[simp] theorem setA_e (s : State) (v : Byte) : (s.setA v).e = s.e := rfl
@[simp] theorem setA_h (s : State) (v : Byte) : (s.setA v).h = s.h := rfl
@[simp] theorem setA_l (s : State) (v : Byte) : (s.setA v).l = s.l := rfl
@[simp] theorem setA_sp (s : State) (v : Byte) : (s.setA v).sp = s.sp := rfl
@[simp] theorem setA_pc (s : State) (v : Byte) : (s.setA v).pc = s.pc := rfl
@[simp] theorem setA_ime (s : State) (v : Byte) : (s.setA v).ime = s.ime := rfl
@[simp] theorem setA_halted (s : State) (v : Byte) : (s.setA v).halted = s.halted := rfl
@[simp] theorem setA_divAcc (s : State) (v : Byte) : (s.setA v).divAcc = s.divAcc := rfl
@[simp] theorem setA_timaAcc (s : State) (v : Byte) : (s.setA v).timaAcc = s.timaAcc := rfl
@[simp] theorem setA_fatal (s : State) (v : Byte) : (s.setA v).fatal = s.fatal := rfl
@[simp] theorem setA_mem (s : State) (v : Byte) : (s.setA v).mem = s.mem := rfl
@[simp] theorem setA_elapsed (s : State) (v : Byte) : (s.setA v).elapsed = s.elapsed := rfl

/-! `setHl` -/

@[simp] theorem setHl_a (s : State) (w : Word) : (s.setHl w).a = s.a := rfl
@[simp] theorem setHl_f (s : State) (w : Word) : (s.setHl w).f = s.f := rfl
@[simp] theorem setHl_b (s : State) (w : Word) : (s.setHl w).b = s.b := rfl
@[simp] theorem setHl_c (s : State) (w : Word) : (s.setHl w).c = s.c := rfl
@[simp] theorem setHl_d (s : State) (w : Word) : (s.setHl w).d = s.d := rfl
@[simp] theorem setHl_e (s : State) (w : Word) : (s.setHl w).e = s.e := rfl
@[simp] theorem setHl_h (s : State) (w : Word) : (s.setHl w).h = hiByte w := rfl
@[simp] theorem setHl_l (s : State) (w : Word) : (s.setHl w).l = loByte w := rfl
@[simp] theorem setHl_sp (s : State) (w : Word) : (s.setHl w).sp = s.sp := rfl
@[simp] theorem setHl_pc (s : State) (w : Word) : (s.setHl w).pc = s.pc := rfl
@[simp] theorem setHl_ime (s : State) (w : Word) : (s.setHl w).ime = s.ime := rfl
@[simp] theorem setHl_halted (s : State) (w : Word) : (s.setHl w).halted = s.halted := rfl
@[simp] theorem setHl_divAcc (s : State) (w : Word) : (s.setHl w).divAcc = s.divAcc := rfl
@[simp] theorem setHl_timaAcc (s : State) (w : Word) : (s.setHl w).timaAcc = s.timaAcc := rfl
@[simp] theorem setHl_fatal (s : State) (w : Word) : (s.setHl w).fatal = s.fatal := rfl
@[simp] theorem setHl_mem (s : State) (w : Word) : (s.setHl w).mem = s.mem := rfl
@[simp] theorem setHl_elapsed (s : State) (w : Word) : (s.setHl w).elapsed = s.elapsed := rfl

/-! `assignF` -/

@[simp] theorem assignF_a (s : State) (fl : Flags) : (s.assignF fl).a = s.a := rfl
@[simp] theorem assignF_f (s : State) (fl : Flags) : (s.assignF fl).f = fl.pack := rfl
@[simp] theorem assignF_b (s : State) (fl : Flags) : (s.assignF fl).b = s.b := rfl
@[simp] theorem assignF_c (s : State) (fl : Flags) : (s.assignF fl).c = s.c := rfl
@[simp] theorem assignF_d (s : State) (fl : Flags) : (s.assignF fl).d = s.d := rfl
@[simp] theorem assignF_e (s : State) (fl : Flags) : (s.assignF fl).e = s.e := rfl
@[simp] theorem assignF_h (s : State) (fl : Flags) : (s.assignF fl).h = s.h := rfl
@[simp] theorem assignF_l (s : State) (fl : Flags) : (s.assignF fl).l = s.l := rfl
@[simp] theorem assignF_sp (s : State) (fl : Flags) : (s.assignF fl).sp = s.sp := rfl
@[simp] theorem assignF_pc (s : State) (fl : Flags) : (s.assignF fl).pc = s.pc := rfl
@[simp] theorem assignF_ime (s : State) (fl : Flags) : (s.assignF fl).ime = s.ime := rfl
@[simp] theorem assignF_halted (s : State) (fl : Flags) : (s.assignF fl).halted = s.halted := rfl
@[simp] theorem assignF_divAcc (s : State) (fl : Flags) : (s.assignF fl).divAcc = s.divAcc := rfl
@[simp] theorem assignF_timaAcc (s : State) (fl : Flags) : (s.assignF fl).timaAcc = s.timaAcc := rfl
@[simp] theorem assignF_fatal (s : State) (fl : Flags) : (s.assignF fl).fatal = s.fatal := rfl
@[simp] theorem assignF_mem (s : State) (fl : Flags) : (s.assignF fl).mem = s.mem := rfl
@[simp] theorem assignF_elapsed (s : State) (fl : Flags) : (s.assignF fl).elapsed = s.elapsed := rfl

/-! `writeFlags` -/

@[simp] theorem writeFlags_a (s : State) (fl : Flags) : (s.writeFlags fl).a = s.a := rfl
@[simp] theorem writeFlags_f (s : State) (fl : Flags) : (s.writeFlags fl).f = (s.f &&& 0x0F) ||| fl.pack := rfl
@[simp] theorem writeFlags_b (s : State) (fl : Flags) : (s.writeFlags fl).b = s.b := rfl
@[simp] theorem writeFlags_c (s : State) (fl : Flags) : (s.writeFlags fl).c = s.c := rfl
@[simp] theorem writeFlags_d (s : State) (fl : Flags) : (s.writeFlags fl).d = s.d := rfl
@[simp] theorem writeFlags_e (s : State) (fl : Flags) : (s.writeFlags fl).e = s.e := rfl
@[simp] theorem writeFlags_h (s : State) (fl : Flags) : (s.writeFlags fl).h = s.h := rfl
@[simp] theorem writeFlags_l (s : State) (fl : Flags) : (s.writeFlags fl).l = s.l := rfl
@[simp] theorem writeFlags_sp (s : State) (fl : Flags) : (s.writeFlags fl).sp = s.sp := rfl
@[simp] theorem writeFlags_pc (s : State) (fl : Flags) : (s.writeFlags fl).pc = s.pc := rfl
@[simp] theorem writeFlags_ime (s : State) (fl : Flags) : (s.writeFlags fl).ime = s.ime := rfl
@[simp] theorem writeFlags_halted (s : State) (fl : Flags) : (s.writeFlags fl).halted = s.halted := rfl
@[simp] theorem writeFlags_divAcc (s : State) (fl : Flags) : (s.writeFlags fl).divAcc = s.divAcc := rfl
@[simp] theorem writeFlags_timaAcc (s : State) (fl : Flags) : (s.writeFlags fl).timaAcc = s.timaAcc := rfl
@[simp] theorem writeFlags_fatal (s : State) (fl : Flags) : (s.writeFlags fl).fatal = s.fatal := rfl
@[simp] theorem writeFlags_mem (s : State) (fl : Flags) : (s.writeFlags fl).mem = s.mem := rfl
@[simp] theorem writeFlags_elapsed (s : State) (fl : Flags) : (s.writeFlags fl).elapsed = s.elapsed := rfl

/-! `raiseFatal` -/

@[simp] theorem raiseFatal_a (s : State) (k : FatalKind) (op : Byte) : (s.raiseFatal k op).a = s.a := rfl
@[simp] theorem raiseFatal_f (s : State) (k : FatalKind) (op : Byte) : (s.raiseFatal k op).f = s.f := rfl
@[simp] theorem raiseFatal_b (s : State) (k : FatalKind) (op : Byte) : (s.raiseFatal k op).b = s.b := rfl
@[simp] theorem raiseFatal_c (s : State) (k : FatalKind) (op : Byte) : (s.raiseFatal k op).c = s.c := rfl
@[simp] theorem raiseFatal_d (s : State) (k : FatalKind) (op : Byte) : (s.raiseFatal k op).d = s.d := rfl
@[simp] theorem raiseFatal_e (s : State) (k : FatalKind) (op : Byte) : (s.raiseFatal k op).e = s.e := rfl
@[simp] theorem raiseFatal_h (s : State) (k : FatalKind) (op : Byte) : (s.raiseFatal k op).h = s.h := rfl
@[simp] theorem raiseFatal_l (s : State) (k : FatalKind) (op : Byte) : (s.raiseFatal k op).l = s.l := rfl
@[simp] theorem raiseFatal_sp (s : State) (k : FatalKind) (op : Byte) : (s.raiseFatal k op).sp = s.sp := rfl
@[simp] theorem raiseFatal_pc (s : State) (k : FatalKind) (op : Byte) : (s.raiseFatal k op).pc = s.pc := rfl
@[simp] theorem raiseFatal_ime (s : State) (k : FatalKind) (op : Byte) : (s.raiseFatal k op).ime = s.ime := rfl
@[simp] theorem raiseFatal_halted (s : State) (k : FatalKind) (op : Byte) : (s.raiseFatal k op).halted = s.halted := rfl
@[simp] theorem raiseFatal_divAcc (s : State) (k : FatalKind) (op : Byte) : (s.raiseFatal k op).divAcc = s.divAcc := rfl
@[simp] theorem raiseFatal_timaAcc (s : State) (k : FatalKind) (op : Byte) : (s.raiseFatal k op).timaAcc = s.timaAcc := rfl
@[simp] theorem raiseFatal_fatal (s : State) (k : FatalKind) (op : Byte) : (s.raiseFatal k op).fatal = some ⟨k, op, s.pc - 1⟩ := rfl
@[simp] theorem raiseFatal_mem (s : State) (k : FatalKind) (op : Byte) : (s.raiseFatal k op).mem = s.mem := rfl
@[simp] theorem raiseFatal_elapsed (s : State) (k : FatalKind) (op : Byte) : (s.raiseFatal k op).elapsed = none := rfl

/-! `writeByte`: only memory -/

/-- A store changes memory and nothing else. -/
theorem writeByte_only_mem (s : State) (x : Word) (v : Byte) :
    s.writeByte x v = { s with mem := (s.writeByte x v).mem } := by
  unfold writeByte
  split
  · rfl
  · split <;> rfl

@[simp] theorem writeByte_a (s : State) (x : Word) (v : Byte) : (s.writeByte x v).a = s.a := by
  rw [writeByte_only_mem]

@[simp] theorem writeByte_f (s : State) (x : Word) (v : Byte) : (s.writeByte x v).f = s.f := by
  rw [writeByte_only_mem]

@[simp] theorem writeByte_b (s : State) (x : Word) (v : Byte) : (s.writeByte x v).b = s.b := by
  rw [writeByte_only_mem]

@[simp] theorem writeByte_c (s : State) (x : Word) (v : Byte) : (s.writeByte x v).c = s.c := by
  rw [writeByte_only_mem]

@[simp] theorem writeByte_d (s : State) (x : Word) (v : Byte) : (s.writeByte x v).d = s.d := by
  rw [writeByte_only_mem]

@[simp] theorem writeByte_e (s : State) (x : Word) (v : Byte) : (s.writeByte x v).e = s.e := by
  rw [writeByte_only_mem]

@[simp] theorem writeByte_h (s : State) (x : Word) (v : Byte) : (s.writeByte x v).h = s.h := by
  rw [writeByte_only_mem]

@[simp] theorem writeByte_l (s : State) (x : Word) (v : Byte) : (s.writeByte x v).l = s.l := by
  rw [writeByte_only_mem]

@[simp] theorem writeByte_sp (s : State) (x : Word) (v : Byte) : (s.writeByte x v).sp = s.sp := by
  rw [writeByte_only_mem]

@[simp] theorem writeByte_pc (s : State) (x : Word) (v : Byte) : (s.writeByte x v).pc = s.pc := by
  rw [writeByte_only_mem]

@[simp] theorem writeByte_ime (s : State) (x : Word) (v : Byte) : (s.writeByte x v).ime = s.ime := by
  rw [writeByte_only_mem]

@[simp] theorem writeByte_halted (s : State) (x : Word) (v : Byte) : (s.writeByte x v).halted = s.halted := by
  rw [writeByte_only_mem]

@[simp] theorem writeByte_divAcc (s : State) (x : Word) (v : Byte) : (s.writeByte x v).divAcc = s.divAcc := by
  rw [writeByte_only_mem]

@[simp] theorem writeByte_timaAcc (s : State) (x : Word) (v : Byte) : (s.writeByte x v).timaAcc = s.timaAcc := by
  rw [writeByte_only_mem]

@[simp] theorem writeByte_fatal (s : State) (x : Word) (v : Byte) : (s.writeByte x v).fatal = s.fatal := by
  rw [writeByte_only_mem]

@[simp] theorem writeByte_elapsed (s : State) (x : Word) (v : Byte) : (s.writeByte x v).elapsed = s.elapsed := by
  rw [writeByte_only_mem]

/-! `writeR8`: the named register, and memory and control state as before -/

@[simp] theorem writeR8_sp (s : State) (r : Reg8) (v : Byte) : (s.writeR8 r v).sp = s.sp := by
  cases r <;> rfl

@[simp] theorem writeR8_pc (s : State) (r : Reg8) (v : Byte) : (s.writeR8 r v).pc = s.pc := by
  cases r <;> rfl

@[simp] theorem writeR8_ime (s : State) (r : Reg8) (v : Byte) : (s.writeR8 r v).ime = s.ime := by
  cases r <;> rfl

@[simp] theorem writeR8_halted (s : State) (r : Reg8) (v : Byte) : (s.writeR8 r v).halted = s.halted := by
  cases r <;> rfl

@[simp] theorem writeR8_divAcc (s : State) (r : Reg8) (v : Byte) : (s.writeR8 r v).divAcc = s.divAcc := by
  cases r <;> rfl

@[simp] theorem writeR8_timaAcc (s : State) (r : Reg8) (v : Byte) : (s.writeR8 r v).timaAcc = s.timaAcc := by
  cases r <;> rfl

@[simp] theorem writeR8_fatal (s : State) (r : Reg8) (v : Byte) : (s.writeR8 r v).fatal = s.fatal := by
  cases r <;> rfl

@[simp] theorem writeR8_mem (s : State) (r : Reg8) (v : Byte) : (s.writeR8 r v).mem = s.mem := by
  cases r <;> rfl

@[simp] theorem writeR8_elapsed (s : State) (r : Reg8) (v : Byte) : (s.writeR8 r v).elapsed = s.elapsed := by
  cases r <;> rfl

@[simp] theorem writeR8_f (s : State) (r : Reg8) (v : Byte) : (s.writeR8 r v).f = s.f := by
  cases r <;> rfl

/-- Reading the register just written. -/
@[simp] theorem readR8_writeR8_same (s : State) (r : Reg8) (v : Byte) : (s.writeR8 r v).readR8 r = v := by
  cases r <;> rfl

/-- Reading another register. -/
theorem readR8_writeR8_other (s : State) (r q : Reg8) (v : Byte) (hne : q ≠ r) :
    (s.writeR8 r v).readR8 q = s.readR8 q := by
  cases r <;> cases q <;> first | rfl | exact absurd rfl hne

/-- A register read depends on the register fields alone. -/
theorem readR8_congr (s t : State) (ha : t.a = s.a) (hb : t.b = s.b) (hc : t.c = s.c) (hd : t.d = s.d) (he : t.e = s.e)
    (hh : t.h = s.h) (hl : t.l = s.l) (r : Reg8) : t.readR8 r = s.readR8 r := by
  cases r <;> assumption

end Sys2Proof.Machine.State
end

