-- ==== Sys2Proof/Laws/Ops.lean ====
section
/-! SUPPORT. One lemma for what each shared operation of Machine/Ops.lean and Machine/Operands.lean can do: the byte at every
address after it, the fields it leaves, and the canonical form it keeps. -/

namespace Sys2Proof.Machine.State

/-! ### Reading a byte after an update -/

/-- States with the same memory read alike. -/
theorem readByte_congr {s t : State} (h : t.mem = s.mem) (x : Word) : t.readByte x = s.readByte x := by
  simp [readByte, h]

@[simp] theorem readByte_setPc (s : State) (t : Word) (x : Word) : (s.setPc t).readByte x = s.readByte x := rfl
@[simp] theorem readByte_setSp (s : State) (t : Word) (x : Word) : (s.setSp t).readByte x = s.readByte x := rfl
@[simp] theorem readByte_setIme (s : State) (v : Bool) (x : Word) : (s.setIme v).readByte x = s.readByte x := rfl
@[simp] theorem readByte_setHalted (s : State) (v : Bool) (x : Word) : (s.setHalted v).readByte x = s.readByte x := rfl
@[simp] theorem readByte_report (s : State) (m : Option Nat) (x : Word) : (s.report m).readByte x = s.readByte x := rfl
@[simp] theorem readByte_addMCycles (s : State) (k : Nat) (x : Word) : (s.addMCycles k).readByte x = s.readByte x := rfl
@[simp] theorem readByte_setA (s : State) (v : Byte) (x : Word) : (s.setA v).readByte x = s.readByte x := rfl
@[simp] theorem readByte_setHl (s : State) (w : Word) (x : Word) : (s.setHl w).readByte x = s.readByte x := rfl
@[simp] theorem readByte_assignF (s : State) (fl : Flags) (x : Word) : (s.assignF fl).readByte x = s.readByte x := rfl
@[simp] theorem readByte_writeFlags (s : State) (fl : Flags) (x : Word) : (s.writeFlags fl).readByte x = s.readByte x := rfl
@[simp] theorem readByte_raiseFatal (s : State) (k : FatalKind) (op : Byte) (x : Word) : (s.raiseFatal k op).readByte x = s.readByte x := rfl
@[simp] theorem readByte_writeR8 (s : State) (r : Reg8) (v : Byte) (x : Word) :
    (s.writeR8 r v).readByte x = s.readByte x := readByte_congr (writeR8_mem s r v) x

/-- One cell stored, every other cell as before (20_memory.md R60). -/
theorem readByte_poke (s : State) (a : Word) (v : Byte) (x : Word) :
    (s.poke a v).readByte x = if x = a then v else s.readByte x := by
  simp only [readByte, poke_mem, Memory.read_write, BitVec.toNat_inj]

theorem inEcho_iff (a : Word) : inEcho a = true ↔ (0xE000 ≤ a && a < 0xFE00) = true := Iff.rfl

theorem inUnusable_iff (a : Word) : inUnusable a = true ↔ (0xFEA0 ≤ a && a < 0xFEFF) = true := Iff.rfl

@[simp] theorem romProtected_false (a : Word) : romProtected a = false := by
  simp [romProtected]

/-- What the address decoder stores: the value in every cell the store reaches, every other cell as before (R61, R62, R63). -/
theorem readByte_writeByte (s : State) (a : Word) (v : Byte) (x : Word) :
    (s.writeByte a v).readByte x = if storeHits a x then v else s.readByte x := by
  unfold writeByte storeHits
  by_cases he : inEcho a = true
  · rw [if_pos he, if_pos ((inEcho_iff a).mp he), readByte_poke, readByte_poke]
    by_cases h1 : x = a - 0x2000 <;> by_cases h2 : x = a <;> simp [h1, h2]
  · rw [if_neg he, if_neg (fun h => he ((inEcho_iff a).mpr h))]
    by_cases hu : inUnusable a = true
    · rw [if_pos (by simp [hu]), if_pos ((inUnusable_iff a).mp hu)]
      rfl
    · rw [if_neg (by simpa using hu), if_neg (fun h => hu ((inUnusable_iff a).mpr h)), readByte_poke]
      by_cases h : x = a <;> simp [h]

/-- No store reaches a cell of the unusable window (R63). -/
theorem storeHits_unusable (a x : Word) (h1 : 0xFEA0 ≤ x) (h2 : x < 0xFEFF) : storeHits a x = false := by
  unfold storeHits
  split
  · next h =>
    simp only [Bool.and_eq_true, decide_eq_true_eq] at h
    simp only [Bool.or_eq_false_iff, beq_eq_false_iff_ne, ne_eq]
    constructor
    · rintro rfl
      bv_omega
    · rintro rfl
      bv_omega
  · split
    · rfl
    · next h =>
      simp only [Bool.and_eq_true, decide_eq_true_eq] at h
      rw [beq_eq_false_iff_ne]
      rintro rfl
      exact h ⟨h1, h2⟩

/-- A store outside the unusable window reaches its own cell (R61). -/
theorem storeHits_self (a : Word) (h : ¬ (0xFEA0 ≤ a ∧ a < 0xFEFF)) : storeHits a a = true := by
  unfold storeHits
  split
  · simp
  · rw [if_neg (by simpa using h)]
    simp

/-! ### The canonical form -/

/-- Every store keeps the canonical form of memory (R48). -/
theorem wf_poke (s : State) (a : Word) (v : Byte) (h : s.mem.wf) : (s.poke a v).mem.wf :=
  Memory.wf_write _ _ _ h a.isLt

theorem wf_writeByte (s : State) (a : Word) (v : Byte) (h : s.mem.wf) : (s.writeByte a v).mem.wf := by
  unfold writeByte
  split
  · exact wf_poke _ _ _ (wf_poke _ _ _ h)
  · split
    · exact h
    · exact wf_poke _ _ _ h

theorem wf_writeWord (s : State) (a v : Word) (h : s.mem.wf) : (s.writeWord a v).mem.wf :=
  wf_writeByte _ _ _ (wf_writeByte _ _ _ h)

theorem wf_push16 (s : State) (v : Word) (h : s.mem.wf) : (s.push16 v).mem.wf :=
  wf_writeByte _ _ _ (wf_writeByte _ _ _ h)

theorem wf_requestInterrupt (s : State) (n : Nat) (h : s.mem.wf) : (s.requestInterrupt n).mem.wf :=
  wf_poke _ _ _ h

theorem wf_enterInterrupt (s : State) (n : Nat) (h : s.mem.wf) : (s.enterInterrupt n).mem.wf := by
  unfold enterInterrupt
  exact wf_poke _ _ _ (wf_push16 _ _ h)

theorem wf_handleInterrupts (s : State) (h : s.mem.wf) : s.handleInterrupts.mem.wf := by
  unfold handleInterrupts
  split
  · split
    · exact wf_enterInterrupt _ _ h
    · exact h
  · exact h

/-- The memory of the state after reset is in canonical form. -/
theorem wf_reset : State.reset.mem.wf := Memory.wf_nil

/-! ### The stack -/

/-- The two bytes a push stores, each through the decoder, the low byte last (45_call_ret_stack.md R220). -/
theorem readByte_push16 (s : State) (v x : Word) : (s.push16 v).readByte x = s.cellAfterPush v x := by
  unfold push16 cellAfterPush
  rw [readByte_setSp, readByte_writeByte, readByte_writeByte]

/-- A push changes SP and memory and nothing else. -/
theorem push16_only (s : State) (v : Word) :
    s.push16 v = { s with sp := s.sp - 2, mem := (s.push16 v).mem } := by
  unfold push16
  rw [writeByte_only_mem, writeByte_only_mem s]
  rfl

@[simp] theorem push16_a (s : State) (v : Word) : (s.push16 v).a = s.a := by
  rw [push16_only]

@[simp] theorem push16_f (s : State) (v : Word) : (s.push16 v).f = s.f := by
  rw [push16_only]

@[simp] theorem push16_b (s : State) (v : Word) : (s.push16 v).b = s.b := by
  rw [push16_only]

@[simp] theorem push16_c (s : State) (v : Word) : (s.push16 v).c = s.c := by
  rw [push16_only]

@[simp] theorem push16_d (s : State) (v : Word) : (s.push16 v).d = s.d := by
  rw [push16_only]

@[simp] theorem push16_e (s : State) (v : Word) : (s.push16 v).e = s.e := by
  rw [push16_only]

@[simp] theorem push16_h (s : State) (v : Word) : (s.push16 v).h = s.h := by
  rw [push16_only]

@[simp] theorem push16_l (s : State) (v : Word) : (s.push16 v).l = s.l := by
  rw [push16_only]

@[simp] theorem push16_sp (s : State) (v : Word) : (s.push16 v).sp = s.sp - 2 := rfl

@[simp] theorem push16_pc (s : State) (v : Word) : (s.push16 v).pc = s.pc := by
  rw [push16_only]

@[simp] theorem push16_ime (s : State) (v : Word) : (s.push16 v).ime = s.ime := by
  rw [push16_only]

@[simp] theorem push16_halted (s : State) (v : Word) : (s.push16 v).halted = s.halted := by
  rw [push16_only]

@[simp] theorem push16_divAcc (s : State) (v : Word) : (s.push16 v).divAcc = s.divAcc := by
  rw [push16_only]

@[simp] theorem push16_timaAcc (s : State) (v : Word) : (s.push16 v).timaAcc = s.timaAcc := by
  rw [push16_only]

@[simp] theorem push16_fatal (s : State) (v : Word) : (s.push16 v).fatal = s.fatal := by
  rw [push16_only]

@[simp] theorem push16_elapsed (s : State) (v : Word) : (s.push16 v).elapsed = s.elapsed := by
  rw [push16_only]

@[simp] theorem popped_a (s : State) : s.popped.a = s.a := rfl
@[simp] theorem popped_f (s : State) : s.popped.f = s.f := rfl
@[simp] theorem popped_b (s : State) : s.popped.b = s.b := rfl
@[simp] theorem popped_c (s : State) : s.popped.c = s.c := rfl
@[simp] theorem popped_d (s : State) : s.popped.d = s.d := rfl
@[simp] theorem popped_e (s : State) : s.popped.e = s.e := rfl
@[simp] theorem popped_h (s : State) : s.popped.h = s.h := rfl
@[simp] theorem popped_l (s : State) : s.popped.l = s.l := rfl
@[simp] theorem popped_sp (s : State) : s.popped.sp = s.sp + 2 := rfl
@[simp] theorem popped_pc (s : State) : s.popped.pc = s.pc := rfl
@[simp] theorem popped_ime (s : State) : s.popped.ime = s.ime := rfl
@[simp] theorem popped_halted (s : State) : s.popped.halted = s.halted := rfl
@[simp] theorem popped_divAcc (s : State) : s.popped.divAcc = s.divAcc := rfl
@[simp] theorem popped_timaAcc (s : State) : s.popped.timaAcc = s.timaAcc := rfl
@[simp] theorem popped_fatal (s : State) : s.popped.fatal = s.fatal := rfl
@[simp] theorem popped_elapsed (s : State) : s.popped.elapsed = s.elapsed := rfl
@[simp] theorem popped_mem (s : State) : s.popped.mem = s.mem := rfl
@[simp] theorem readByte_popped (s : State) (x : Word) : s.popped.readByte x = s.readByte x := rfl

@[simp] theorem popPc_a (s : State) : s.popPc.a = s.a := rfl
@[simp] theorem popPc_f (s : State) : s.popPc.f = s.f := rfl
@[simp] theorem popPc_b (s : State) : s.popPc.b = s.b := rfl
@[simp] theorem popPc_c (s : State) : s.popPc.c = s.c := rfl
@[simp] theorem popPc_d (s : State) : s.popPc.d = s.d := rfl
@[simp] theorem popPc_e (s : State) : s.popPc.e = s.e := rfl
@[simp] theorem popPc_h (s : State) : s.popPc.h = s.h := rfl
@[simp] theorem popPc_l (s : State) : s.popPc.l = s.l := rfl
@[simp] theorem popPc_sp (s : State) : s.popPc.sp = s.sp + 2 := rfl
@[simp] theorem popPc_pc (s : State) : s.popPc.pc = s.popWord := rfl
@[simp] theorem popPc_ime (s : State) : s.popPc.ime = s.ime := rfl
@[simp] theorem popPc_halted (s : State) : s.popPc.halted = s.halted := rfl
@[simp] theorem popPc_divAcc (s : State) : s.popPc.divAcc = s.divAcc := rfl
@[simp] theorem popPc_timaAcc (s : State) : s.popPc.timaAcc = s.timaAcc := rfl
@[simp] theorem popPc_fatal (s : State) : s.popPc.fatal = s.fatal := rfl
@[simp] theorem popPc_elapsed (s : State) : s.popPc.elapsed = s.elapsed := rfl
@[simp] theorem popPc_mem (s : State) : s.popPc.mem = s.mem := rfl
@[simp] theorem readByte_popPc (s : State) (x : Word) : s.popPc.readByte x = s.readByte x := rfl

@[simp] theorem returnFromInterrupt_a (s : State) : s.returnFromInterrupt.a = s.a := rfl
@[simp] theorem returnFromInterrupt_f (s : State) : s.returnFromInterrupt.f = s.f := rfl
@[simp] theorem returnFromInterrupt_b (s : State) : s.returnFromInterrupt.b = s.b := rfl
@[simp] theorem returnFromInterrupt_c (s : State) : s.returnFromInterrupt.c = s.c := rfl
@[simp] theorem returnFromInterrupt_d (s : State) : s.returnFromInterrupt.d = s.d := rfl
@[simp] theorem returnFromInterrupt_e (s : State) : s.returnFromInterrupt.e = s.e := rfl
@[simp] theorem returnFromInterrupt_h (s : State) : s.returnFromInterrupt.h = s.h := rfl
@[simp] theorem returnFromInterrupt_l (s : State) : s.returnFromInterrupt.l = s.l := rfl
@[simp] theorem returnFromInterrupt_sp (s : State) : s.returnFromInterrupt.sp = s.sp + 2 := rfl
@[simp] theorem returnFromInterrupt_pc (s : State) : s.returnFromInterrupt.pc = s.popWord := rfl
@[simp] theorem returnFromInterrupt_ime (s : State) : s.returnFromInterrupt.ime = true := rfl
@[simp] theorem returnFromInterrupt_halted (s : State) : s.returnFromInterrupt.halted = s.halted := rfl
@[simp] theorem returnFromInterrupt_divAcc (s : State) : s.returnFromInterrupt.divAcc = s.divAcc := rfl
@[simp] theorem returnFromInterrupt_timaAcc (s : State) : s.returnFromInterrupt.timaAcc = s.timaAcc := rfl
@[simp] theorem returnFromInterrupt_fatal (s : State) : s.returnFromInterrupt.fatal = s.fatal := rfl
@[simp] theorem returnFromInterrupt_elapsed (s : State) : s.returnFromInterrupt.elapsed = s.elapsed := rfl
@[simp] theorem returnFromInterrupt_mem (s : State) : s.returnFromInterrupt.mem = s.mem := rfl
@[simp] theorem readByte_returnFromInterrupt (s : State) (x : Word) : s.returnFromInterrupt.readByte x = s.readByte x := rfl

/-- The word a pop returns, as a number (R221). -/
theorem popWord_toNat (s : State) :
    s.popWord.toNat = 256 * (s.readByte (s.sp + 1)).toNat + (s.readByte s.sp).toNat := mkWord_toNat _ _

/-- The byte at every address after a call (R222). -/
theorem readByte_callTo (s : State) (t x : Word) : (s.callTo t).readByte x = s.cellAfterPush s.pc x :=
  readByte_push16 s s.pc x

@[simp] theorem callTo_pc (s : State) (t : Word) : (s.callTo t).pc = t := rfl
@[simp] theorem callTo_a (s : State) (t : Word) : (s.callTo t).a = s.a := push16_a s s.pc
@[simp] theorem callTo_f (s : State) (t : Word) : (s.callTo t).f = s.f := push16_f s s.pc
@[simp] theorem callTo_b (s : State) (t : Word) : (s.callTo t).b = s.b := push16_b s s.pc
@[simp] theorem callTo_c (s : State) (t : Word) : (s.callTo t).c = s.c := push16_c s s.pc
@[simp] theorem callTo_d (s : State) (t : Word) : (s.callTo t).d = s.d := push16_d s s.pc
@[simp] theorem callTo_e (s : State) (t : Word) : (s.callTo t).e = s.e := push16_e s s.pc
@[simp] theorem callTo_h (s : State) (t : Word) : (s.callTo t).h = s.h := push16_h s s.pc
@[simp] theorem callTo_l (s : State) (t : Word) : (s.callTo t).l = s.l := push16_l s s.pc
@[simp] theorem callTo_sp (s : State) (t : Word) : (s.callTo t).sp = s.sp - 2 := push16_sp s s.pc
@[simp] theorem callTo_ime (s : State) (t : Word) : (s.callTo t).ime = s.ime := push16_ime s s.pc
@[simp] theorem callTo_halted (s : State) (t : Word) : (s.callTo t).halted = s.halted := push16_halted s s.pc
@[simp] theorem callTo_divAcc (s : State) (t : Word) : (s.callTo t).divAcc = s.divAcc := push16_divAcc s s.pc
@[simp] theorem callTo_timaAcc (s : State) (t : Word) : (s.callTo t).timaAcc = s.timaAcc := push16_timaAcc s s.pc
@[simp] theorem callTo_fatal (s : State) (t : Word) : (s.callTo t).fatal = s.fatal := push16_fatal s s.pc
@[simp] theorem callTo_elapsed (s : State) (t : Word) : (s.callTo t).elapsed = s.elapsed := push16_elapsed s s.pc
@[simp] theorem callTo_mem (s : State) (t : Word) : (s.callTo t).mem = (s.push16 s.pc).mem := rfl

/-! ### Words -/

/-- A word read, as a number (20_memory.md R64). -/
theorem readWord_toNat (s : State) (a : Word) :
    (s.readWord a).toNat = 256 * (s.readByte (a + 1)).toNat + (s.readByte a).toNat := mkWord_toNat _ _

/-- The byte at every address after a word store (R65). -/
theorem readByte_writeWord (s : State) (a v x : Word) :
    (s.writeWord a v).readByte x =
      if storeHits (a + 1) x then hiByte v else if storeHits a x then loByte v else s.readByte x := by
  unfold writeWord
  rw [readByte_writeByte, readByte_writeByte]

/-- A word store changes memory and nothing else. -/
theorem writeWord_only_mem (s : State) (a v : Word) :
    s.writeWord a v = { s with mem := (s.writeWord a v).mem } := by
  unfold writeWord
  rw [writeByte_only_mem, writeByte_only_mem s]

/-! ### Interrupts -/

/-- Interrupt entry's default cost leaves the count (60_exceptions.md R302). -/
theorem addMCycles_zero (s : State) : s.addMCycles 0 = s := by
  simp [addMCycles]

/-- The byte at every address after a request (R309). -/
theorem readByte_requestInterrupt (s : State) (n : Nat) (x : Word) :
    (s.requestInterrupt n).readByte x =
      if x = 0xFF0F then setBit (s.readByte 0xFF0F) n else s.readByte x := readByte_poke s _ _ x

/-- The byte at every address after the entry for source `n`: PC pushed, the request bit cleared after it (R315). -/
theorem readByte_enterInterrupt (s : State) (n : Nat) (x : Word) :
    (s.enterInterrupt n).readByte x =
      if x = 0xFF0F then clearBit (s.cellAfterPush s.pc x) n else s.cellAfterPush s.pc x := by
  have h (y : Word) : (((s.setIme false).setHalted false).push16 s.pc).readByte y = s.cellAfterPush s.pc y :=
    readByte_push16 _ _ _
  unfold enterInterrupt
  simp only [readByte_addMCycles, readByte_setPc, params_ifAddr, readByte_poke, h]
  by_cases hx : x = 0xFF0F
  · simp [hx]
  · rw [if_neg hx, if_neg hx]

/-- Entry changes IME, halted, SP, PC and memory and nothing else (R315). -/
theorem enterInterrupt_only (s : State) (n : Nat) :
    s.enterInterrupt n =
      { s with ime := false, halted := false, sp := s.sp - 2, pc := vectors n, mem := (s.enterInterrupt n).mem } := by
  unfold enterInterrupt
  rw [params_intDispatchMCycles, addMCycles_zero, push16_only]
  rfl

/-- The interrupt check: with IME clear nothing happens (R315). -/
theorem handleInterrupts_closed (s : State) (h : s.ime = false) : s.handleInterrupts = s := by
  simp [handleInterrupts, h]

/-- A pending source is one whose bit is set in IE and in IF (R308). -/
theorem pending_bit (s : State) {i : Nat} (hi : i < 5) :
    bitAt s.pending i = ((s.readByte 0xFFFF).getLsbD i && (s.readByte 0xFF0F).getLsbD i) := by
  have hm : (0x1F : Byte).getLsbD i = true := by
    have : i = 0 ∨ i = 1 ∨ i = 2 ∨ i = 3 ∨ i = 4 := by omega
    rcases this with rfl | rfl | rfl | rfl | rfl <;> rfl
  show BitVec.getLsbD (s.readByte 0xFFFF &&& s.readByte 0xFF0F &&& 0x1F) i = _
  rw [BitVec.getLsbD_and, BitVec.getLsbD_and, hm, Bool.and_true]

/-- The interrupt check: either the state as it is, or IME was set and the entry for the least source below five that is
enabled and requested (R313, R315). -/
theorem handleInterrupts_cases (s : State) :
    s.handleInterrupts = s ∨
      s.ime = true ∧ ∃ n, n < 5 ∧ (s.readByte 0xFFFF).getLsbD n = true ∧ (s.readByte 0xFF0F).getLsbD n = true ∧
        (∀ i, i < n → bitAt s.pending i = false) ∧ s.handleInterrupts = s.enterInterrupt n := by
  unfold handleInterrupts
  by_cases hi : s.ime = true
  · rw [if_pos hi]
    cases hl : lowestSource s.pending with
    | none => exact .inl rfl
    | some n =>
      obtain ⟨hb, hm, hlow⟩ := List.find?_range_eq_some.mp hl
      have hn : n < 5 := by simpa using hm
      have h : _ = true := (pending_bit s hn).symm.trans hb
      rw [Bool.and_eq_true] at h
      exact .inr ⟨hi, n, hn, h.1, h.2, by simpa using hlow, rfl⟩
  · rw [if_neg hi]
    exact .inl rfl

end Sys2Proof.Machine.State
end

