-- ==== Sys2Proof/Laws/Flags.lean ====
section
/-! SUPPORT. What writing the flags can do: the four flags read back, the bits below them, and the named registers
(10_state.md R29, R30; 00_scope.md R7). -/

namespace Sys2Proof.Machine

namespace Flags

theorem pack_bits (fl : Flags) :
    fl.pack.getLsbD 7 = fl.z ∧ fl.pack.getLsbD 6 = fl.n ∧ fl.pack.getLsbD 5 = fl.h ∧ fl.pack.getLsbD 4 = fl.c := by
  obtain ⟨z, n, h, c⟩ := fl
  revert z n h c
  decide

/-- Packed flags have a zero low nibble (R7). -/
@[simp] theorem pack_low (fl : Flags) : fl.pack &&& 0x0F = 0 := by
  obtain ⟨z, n, h, c⟩ := fl
  revert z n h c
  decide

end Flags

namespace State

theorem low_or_pack_bit (f : Byte) (fl : Flags) {i : Nat} (h4 : 4 ≤ i) :
    ((f &&& 0x0F) ||| fl.pack).getLsbD i = fl.pack.getLsbD i := by
  have hm : (0x0F : Byte).getLsbD i = false := by
    by_cases hi : i < 8
    · have : i = 4 ∨ i = 5 ∨ i = 6 ∨ i = 7 := by omega
      rcases this with rfl | rfl | rfl | rfl <;> rfl
    · exact BitVec.getLsbD_of_ge _ _ (by omega)
  rw [BitVec.getLsbD_or, BitVec.getLsbD_and, hm]
  simp

@[simp] theorem flagZ_writeFlags (s : State) (fl : Flags) : (s.writeFlags fl).flagZ = fl.z :=
  (low_or_pack_bit _ _ (by decide)).trans fl.pack_bits.1

@[simp] theorem flagN_writeFlags (s : State) (fl : Flags) : (s.writeFlags fl).flagN = fl.n :=
  (low_or_pack_bit _ _ (by decide)).trans fl.pack_bits.2.1

@[simp] theorem flagH_writeFlags (s : State) (fl : Flags) : (s.writeFlags fl).flagH = fl.h :=
  (low_or_pack_bit _ _ (by decide)).trans fl.pack_bits.2.2.1

@[simp] theorem flagC_writeFlags (s : State) (fl : Flags) : (s.writeFlags fl).flagC = fl.c :=
  (low_or_pack_bit _ _ (by decide)).trans fl.pack_bits.2.2.2

@[simp] theorem flagZ_assignF (s : State) (fl : Flags) : (s.assignF fl).flagZ = fl.z := fl.pack_bits.1
@[simp] theorem flagN_assignF (s : State) (fl : Flags) : (s.assignF fl).flagN = fl.n := fl.pack_bits.2.1
@[simp] theorem flagH_assignF (s : State) (fl : Flags) : (s.assignF fl).flagH = fl.h := fl.pack_bits.2.2.1
@[simp] theorem flagC_assignF (s : State) (fl : Flags) : (s.assignF fl).flagC = fl.c := fl.pack_bits.2.2.2

/-- The flag bits written, the bits below them as before (R30). -/
theorem lowBitsKept_writeFlags (s : State) (fl : Flags) : (s.writeFlags fl).f &&& 0x0F = s.f &&& 0x0F := by
  apply BitVec.eq_of_getLsbD_eq
  intro i hi
  have h := congrArg (fun v => BitVec.getLsbD v i) fl.pack_low
  simp only [BitVec.getLsbD_and] at h
  simp only [writeFlags_f, BitVec.getLsbD_and, BitVec.getLsbD_or, Bool.and_or_distrib_right, h]
  simp

/-- All of F assigned: the low nibble is zero (R7). -/
theorem lowNibbleZero_assignF (s : State) (fl : Flags) : (s.assignF fl).LowNibbleZero := fl.pack_low

theorem lowNibbleZero_writeFlags (s : State) (fl : Flags) (h : s.LowNibbleZero) : (s.writeFlags fl).LowNibbleZero :=
  (lowBitsKept_writeFlags s fl).trans h

/-- A flag read depends on F alone. -/
theorem flags_congr {s t : State} (h : t.f = s.f) :
    t.flagZ = s.flagZ ∧ t.flagN = s.flagN ∧ t.flagH = s.flagH ∧ t.flagC = s.flagC := by
  simp [flagZ, flagN, flagH, flagC, h]

/-! ### The flags after an update of something else -/

@[simp] theorem flagZ_setPc (s : State) (t : Word) : (s.setPc t).flagZ = s.flagZ := rfl
@[simp] theorem flagN_setPc (s : State) (t : Word) : (s.setPc t).flagN = s.flagN := rfl
@[simp] theorem flagH_setPc (s : State) (t : Word) : (s.setPc t).flagH = s.flagH := rfl
@[simp] theorem flagC_setPc (s : State) (t : Word) : (s.setPc t).flagC = s.flagC := rfl
@[simp] theorem flagZ_setSp (s : State) (t : Word) : (s.setSp t).flagZ = s.flagZ := rfl
@[simp] theorem flagN_setSp (s : State) (t : Word) : (s.setSp t).flagN = s.flagN := rfl
@[simp] theorem flagH_setSp (s : State) (t : Word) : (s.setSp t).flagH = s.flagH := rfl
@[simp] theorem flagC_setSp (s : State) (t : Word) : (s.setSp t).flagC = s.flagC := rfl
@[simp] theorem flagZ_setIme (s : State) (v : Bool) : (s.setIme v).flagZ = s.flagZ := rfl
@[simp] theorem flagN_setIme (s : State) (v : Bool) : (s.setIme v).flagN = s.flagN := rfl
@[simp] theorem flagH_setIme (s : State) (v : Bool) : (s.setIme v).flagH = s.flagH := rfl
@[simp] theorem flagC_setIme (s : State) (v : Bool) : (s.setIme v).flagC = s.flagC := rfl
@[simp] theorem flagZ_setHalted (s : State) (v : Bool) : (s.setHalted v).flagZ = s.flagZ := rfl
@[simp] theorem flagN_setHalted (s : State) (v : Bool) : (s.setHalted v).flagN = s.flagN := rfl
@[simp] theorem flagH_setHalted (s : State) (v : Bool) : (s.setHalted v).flagH = s.flagH := rfl
@[simp] theorem flagC_setHalted (s : State) (v : Bool) : (s.setHalted v).flagC = s.flagC := rfl
@[simp] theorem flagZ_report (s : State) (m : Option Nat) : (s.report m).flagZ = s.flagZ := rfl
@[simp] theorem flagN_report (s : State) (m : Option Nat) : (s.report m).flagN = s.flagN := rfl
@[simp] theorem flagH_report (s : State) (m : Option Nat) : (s.report m).flagH = s.flagH := rfl
@[simp] theorem flagC_report (s : State) (m : Option Nat) : (s.report m).flagC = s.flagC := rfl
@[simp] theorem flagZ_setA (s : State) (v : Byte) : (s.setA v).flagZ = s.flagZ := rfl
@[simp] theorem flagN_setA (s : State) (v : Byte) : (s.setA v).flagN = s.flagN := rfl
@[simp] theorem flagH_setA (s : State) (v : Byte) : (s.setA v).flagH = s.flagH := rfl
@[simp] theorem flagC_setA (s : State) (v : Byte) : (s.setA v).flagC = s.flagC := rfl
@[simp] theorem flagZ_setHl (s : State) (w : Word) : (s.setHl w).flagZ = s.flagZ := rfl
@[simp] theorem flagN_setHl (s : State) (w : Word) : (s.setHl w).flagN = s.flagN := rfl
@[simp] theorem flagH_setHl (s : State) (w : Word) : (s.setHl w).flagH = s.flagH := rfl
@[simp] theorem flagC_setHl (s : State) (w : Word) : (s.setHl w).flagC = s.flagC := rfl
@[simp] theorem flagZ_writeR8 (s : State) (r : Reg8) (v : Byte) : (s.writeR8 r v).flagZ = s.flagZ := (flags_congr (writeR8_f s r v)).1
@[simp] theorem flagN_writeR8 (s : State) (r : Reg8) (v : Byte) : (s.writeR8 r v).flagN = s.flagN := (flags_congr (writeR8_f s r v)).2.1
@[simp] theorem flagH_writeR8 (s : State) (r : Reg8) (v : Byte) : (s.writeR8 r v).flagH = s.flagH := (flags_congr (writeR8_f s r v)).2.2.1
@[simp] theorem flagC_writeR8 (s : State) (r : Reg8) (v : Byte) : (s.writeR8 r v).flagC = s.flagC := (flags_congr (writeR8_f s r v)).2.2.2
@[simp] theorem flagZ_writeByte (s : State) (a : Word) (v : Byte) : (s.writeByte a v).flagZ = s.flagZ := (flags_congr (writeByte_f s a v)).1
@[simp] theorem flagN_writeByte (s : State) (a : Word) (v : Byte) : (s.writeByte a v).flagN = s.flagN := (flags_congr (writeByte_f s a v)).2.1
@[simp] theorem flagH_writeByte (s : State) (a : Word) (v : Byte) : (s.writeByte a v).flagH = s.flagH := (flags_congr (writeByte_f s a v)).2.2.1
@[simp] theorem flagC_writeByte (s : State) (a : Word) (v : Byte) : (s.writeByte a v).flagC = s.flagC := (flags_congr (writeByte_f s a v)).2.2.2
@[simp] theorem flagZ_push16 (s : State) (v : Word) : (s.push16 v).flagZ = s.flagZ := (flags_congr (push16_f s v)).1
@[simp] theorem flagN_push16 (s : State) (v : Word) : (s.push16 v).flagN = s.flagN := (flags_congr (push16_f s v)).2.1
@[simp] theorem flagH_push16 (s : State) (v : Word) : (s.push16 v).flagH = s.flagH := (flags_congr (push16_f s v)).2.2.1
@[simp] theorem flagC_push16 (s : State) (v : Word) : (s.push16 v).flagC = s.flagC := (flags_congr (push16_f s v)).2.2.2

/-- Each condition is its flag's value (30_encoding.md R97). -/
theorem cond_iff (s : State) :
    (s.cond .nz = !s.flagZ) ∧ s.cond .z = s.flagZ ∧ (s.cond .nc = !s.flagC) ∧ s.cond .c = s.flagC :=
  ⟨rfl, rfl, rfl, rfl⟩

/-- A register read after a flag write. -/
@[simp] theorem readR8_writeFlags (s : State) (fl : Flags) (r : Reg8) : (s.writeFlags fl).readR8 r = s.readR8 r := by
  cases r <;> rfl

@[simp] theorem readR8_assignF (s : State) (fl : Flags) (r : Reg8) : (s.assignF fl).readR8 r = s.readR8 r := by
  cases r <;> rfl

@[simp] theorem readR8_report (s : State) (m : Option Nat) (r : Reg8) : (s.report m).readR8 r = s.readR8 r := by
  cases r <;> rfl

@[simp] theorem readR8_setPc (s : State) (t : Word) (r : Reg8) : (s.setPc t).readR8 r = s.readR8 r := by
  cases r <;> rfl

@[simp] theorem readR8_setSp (s : State) (t : Word) (r : Reg8) : (s.setSp t).readR8 r = s.readR8 r := by
  cases r <;> rfl

@[simp] theorem readR8_writeByte (s : State) (a : Word) (v : Byte) (r : Reg8) :
    (s.writeByte a v).readR8 r = s.readR8 r := by
  rw [writeByte_only_mem]
  cases r <;> rfl

@[simp] theorem readR8_push16 (s : State) (v : Word) (r : Reg8) : (s.push16 v).readR8 r = s.readR8 r := by
  rw [push16_only]
  cases r <;> rfl

@[simp] theorem readR8_callTo (s : State) (t : Word) (r : Reg8) : (s.callTo t).readR8 r = s.readR8 r := readR8_push16 s _ r

@[simp] theorem readR8_popPc (s : State) (r : Reg8) : s.popPc.readR8 r = s.readR8 r := by
  cases r <;> rfl

/-! ### The pairs -/

/-- A pair written and read back (10_state.md R25). -/
@[simp] theorem getWord_setWord_same (s : State) (p : RegPair) (w : Word) : (s.setWord p w).getWord p = w := by
  cases p <;> simp [getWord, setWord, af, bc, de, hl, setHl, setPc, setSp]

/-- Another pair is untouched (R20). -/
theorem getWord_setWord_other (s : State) (p q : RegPair) (w : Word) (h : q ≠ p) :
    (s.setWord p w).getWord q = s.getWord q := by
  cases p <;> cases q <;> first | rfl | exact absurd rfl h

@[simp] theorem readR16_writeR16_same (s : State) (p : Reg16) (w : Word) : (s.writeR16 p w).readR16 p = w :=
  getWord_setWord_same s _ w

theorem readR16_writeR16_other (s : State) (p q : Reg16) (w : Word) (h : q ≠ p) :
    (s.writeR16 p w).readR16 q = s.readR16 q := by
  cases p <;> cases q <;> first | rfl | exact absurd rfl h

/-- What a pair write leaves: A, F, PC, the control state and memory (R20). -/
theorem writeR16_frame (s : State) (p : Reg16) (w : Word) :
    (s.writeR16 p w).a = s.a ∧ (s.writeR16 p w).f = s.f ∧ (s.writeR16 p w).pc = s.pc ∧ (s.writeR16 p w).mem = s.mem ∧
      SameControl s (s.writeR16 p w) := by
  cases p <;> exact ⟨rfl, rfl, rfl, rfl, rfl, rfl, rfl, rfl, rfl⟩

theorem writeStackPair_frame (s : State) (p : StackPair) (w : Word) :
    (s.writeStackPair p w).a = s.a ∧ (s.writeStackPair p w).f = s.f ∧ (s.writeStackPair p w).pc = s.pc ∧
      (s.writeStackPair p w).sp = s.sp ∧ (s.writeStackPair p w).mem = s.mem ∧ SameControl s (s.writeStackPair p w) := by
  cases p <;> exact ⟨rfl, rfl, rfl, rfl, rfl, rfl, rfl, rfl, rfl, rfl⟩

end State

end Sys2Proof.Machine
end

