-- ==== Sys2Proof/Laws/Timer.lean ====
section
/-! SUPPORT. What the divider and the timer can do (Machine/Timer.lean): the bytes and accumulators after each, the fields
they leave, the canonical form they keep. -/

namespace Sys2Proof.Machine.State

/-! ### The definitions with the parameters' values -/

theorem divTicks_succ (s : State) (k : Nat) :
    s.divTicks (k + 1) = (s.poke 0xFF04 (s.readByte 0xFF04 + 1)).divTicks k := rfl

theorem timaTick_eq (s : State) :
    s.timaTick =
      if s.readByte 0xFF05 = 0xFF then (s.poke 0xFF05 (s.readByte 0xFF06)).requestInterrupt 2
      else s.poke 0xFF05 (s.readByte 0xFF05 + 1) := rfl

theorem timaTicks_succ (s : State) (k : Nat) : s.timaTicks (k + 1) = s.timaTick.timaTicks k := rfl

theorem timerOn_eq (s : State) : s.timerOn = (s.readByte 0xFF07).getLsbD 2 := rfl

theorem timerPeriod_eq (s : State) : s.timerPeriod = timerPeriods ((s.readByte 0xFF07).toNat % 4) := rfl

theorem updateTima_off (s : State) (t : Nat) (h : s.timerOn = false) : s.updateTima t = s := by
  simp [updateTima, h]

theorem updateTima_on (s : State) (t : Nat) (h : s.timerOn = true) :
    s.updateTima t =
      { s.timaTicks ((s.timaAcc + t) / s.timerPeriod) with timaAcc := (s.timaAcc + t) % s.timerPeriod } := by
  simp [updateTima, h]

/-! ### The divider -/

theorem divTicks_only_mem (n : Nat) : ∀ s : State, s.divTicks n = { s with mem := (s.divTicks n).mem } := by
  induction n with
  | zero => exact fun _ => rfl
  | succ k ih =>
    intro s
    show State.divTicks _ k = _
    rw [ih]
    rfl

theorem wf_divTicks (n : Nat) : ∀ s : State, s.mem.wf → (s.divTicks n).mem.wf := by
  induction n with
  | zero => exact fun _ h => h
  | succ k ih => exact fun s h => ih _ (wf_poke _ _ _ h)

/-- `n` increments add `n` to DIV modulo 256 and leave every other byte (60_exceptions.md R324). -/
theorem readByte_divTicks (n : Nat) : ∀ (s : State) (x : Word),
    (s.divTicks n).readByte x = if x = 0xFF04 then s.readByte 0xFF04 + BitVec.ofNat 8 n else s.readByte x := by
  induction n with
  | zero =>
    intro s x
    by_cases hx : x = 0xFF04
    · rw [if_pos hx, hx]
      exact (BitVec.add_zero _).symm
    · rw [if_neg hx]
      rfl
  | succ k ih =>
    intro s x
    rw [divTicks_succ, ih, readByte_poke, readByte_poke]
    by_cases hx : x = 0xFF04
    · rw [if_pos hx, if_pos hx, if_pos rfl, BitVec.add_assoc]
      congr 1
      rw [show (1 : Byte) = BitVec.ofNat 8 1 from rfl, ← BitVec.ofNat_add, Nat.add_comm]
    · rw [if_neg hx, if_neg hx, if_neg hx]

/-- `UpdateDivider` changes `divAcc` and memory and nothing else (R324). -/
theorem updateDivider_only (s : State) (t : Nat) :
    s.updateDivider t = { s with divAcc := (s.divAcc + t) % 256, mem := (s.updateDivider t).mem } := by
  unfold updateDivider
  rw [divTicks_only_mem]
  rfl

@[simp] theorem updateDivider_divAcc (s : State) (t : Nat) : (s.updateDivider t).divAcc = (s.divAcc + t) % 256 := rfl

@[simp] theorem updateDivider_timaAcc (s : State) (t : Nat) : (s.updateDivider t).timaAcc = s.timaAcc := by
  rw [updateDivider_only]

/-- The byte at every address after `UpdateDivider` (R324). -/
theorem readByte_updateDivider (s : State) (t : Nat) (x : Word) :
    (s.updateDivider t).readByte x =
      if x = 0xFF04 then s.readByte 0xFF04 + BitVec.ofNat 8 ((s.divAcc + t) / 256) else s.readByte x :=
  readByte_divTicks _ s x

theorem wf_updateDivider (s : State) (t : Nat) (h : s.mem.wf) : (s.updateDivider t).mem.wf := wf_divTicks _ s h

/-! ### The timer -/

theorem timaTick_only_mem (s : State) : s.timaTick = { s with mem := s.timaTick.mem } := by
  unfold timaTick
  split <;> rfl

/-- One increment: TIMA steps, or reloads from TMA and requests source 2 (R325, R327). -/
theorem readByte_timaTick (s : State) (x : Word) :
    s.timaTick.readByte x =
      if s.readByte 0xFF05 = 0xFF then
        if x = 0xFF0F then setBit (s.readByte 0xFF0F) 2 else if x = 0xFF05 then s.readByte 0xFF06 else s.readByte x
      else if x = 0xFF05 then s.readByte 0xFF05 + 1 else s.readByte x := by
  rw [timaTick_eq]
  by_cases h : s.readByte 0xFF05 = 0xFF
  · rw [if_pos h, if_pos h, readByte_requestInterrupt]
    by_cases hx : x = 0xFF0F
    · rw [if_pos hx, if_pos hx, readByte_poke, if_neg (by decide)]
    · rw [if_neg hx, if_neg hx, readByte_poke]
  · rw [if_neg h, if_neg h, readByte_poke]

theorem wf_timaTick (s : State) (h : s.mem.wf) : s.timaTick.mem.wf := by
  unfold timaTick
  split
  · exact wf_requestInterrupt _ _ (wf_poke _ _ _ h)
  · exact wf_poke _ _ _ h

theorem timaTicks_only_mem (n : Nat) : ∀ s : State, s.timaTicks n = { s with mem := (s.timaTicks n).mem } := by
  induction n with
  | zero => exact fun _ => rfl
  | succ k ih =>
    intro s
    have h := congrArg (fun u : State => { u with mem := (s.timaTick.timaTicks k).mem }) (timaTick_only_mem s)
    exact (ih s.timaTick).trans h

theorem wf_timaTicks (n : Nat) : ∀ s : State, s.mem.wf → (s.timaTicks n).mem.wf := by
  induction n with
  | zero => exact fun _ h => h
  | succ k ih => exact fun s h => ih _ (wf_timaTick _ h)

/-- Increments of TIMA touch TIMA and IF alone (R325). -/
theorem readByte_timaTicks_other (n : Nat) : ∀ (s : State) {x : Word}, x ≠ 0xFF05 → x ≠ 0xFF0F →
    (s.timaTicks n).readByte x = s.readByte x := by
  induction n with
  | zero => exact fun _ _ _ _ => rfl
  | succ k ih =>
    intro s x h1 h2
    rw [timaTicks_succ, ih _ h1 h2, readByte_timaTick, if_neg h1, if_neg h1, if_neg h2, ite_self]

/-- Increments come one after another. -/
theorem timaTicks_add (m n : Nat) : ∀ s : State, s.timaTicks (m + n) = (s.timaTicks m).timaTicks n := by
  induction m with
  | zero => intro s; rw [Nat.zero_add]; rfl
  | succ k ih =>
    intro s
    rw [Nat.add_right_comm]
    exact ih _

/-- The period is positive and at most 1024 (10_state.md R43). -/
theorem timerPeriod_bounds (s : State) : 0 < s.timerPeriod ∧ s.timerPeriod ≤ 1024 := timerPeriods_bounds _

/-- `UpdateTima` changes `timaAcc` and memory and nothing else (R325, R326). -/
theorem updateTima_only (s : State) (t : Nat) :
    s.updateTima t = { s with timaAcc := (s.updateTima t).timaAcc, mem := (s.updateTima t).mem } := by
  unfold updateTima
  split
  · rw [timaTicks_only_mem]
  · rfl

theorem updateTima_timaAcc (s : State) (t : Nat) :
    (s.updateTima t).timaAcc = if s.timerOn then (s.timaAcc + t) % s.timerPeriod else s.timaAcc := by
  unfold updateTima
  split <;> rfl

/-- `UpdateTima` touches TIMA and IF alone (R325). -/
theorem readByte_updateTima_other (s : State) (t : Nat) {x : Word} (h1 : x ≠ 0xFF05) (h2 : x ≠ 0xFF0F) :
    (s.updateTima t).readByte x = s.readByte x := by
  unfold updateTima
  split
  · exact readByte_timaTicks_other _ s h1 h2
  · rfl

theorem wf_updateTima (s : State) (t : Nat) (h : s.mem.wf) : (s.updateTima t).mem.wf := by
  unfold updateTima
  split
  · exact wf_timaTicks _ s h
  · exact h

/-! ### Both, and the end of a step -/

/-- `UpdateTimer` changes the two accumulators and memory and nothing else (R322). -/
theorem updateTimer_only (s : State) (t : Nat) :
    s.updateTimer t =
      { s with divAcc := (s.divAcc + t) % 256, timaAcc := (s.updateTimer t).timaAcc, mem := (s.updateTimer t).mem } := by
  unfold updateTimer
  rw [updateTima_only, updateDivider_only]

theorem wf_updateTimer (s : State) (t : Nat) (h : s.mem.wf) : (s.updateTimer t).mem.wf :=
  wf_updateTima _ _ (wf_updateDivider _ _ h)

/-- `UpdateTimer` touches DIV, TIMA and IF alone (R322). -/
theorem readByte_updateTimer_other (s : State) (t : Nat) {x : Word} (h0 : x ≠ 0xFF04) (h1 : x ≠ 0xFF05)
    (h2 : x ≠ 0xFF0F) : (s.updateTimer t).readByte x = s.readByte x := by
  unfold updateTimer
  rw [readByte_updateTima_other _ _ h1 h2, readByte_updateDivider, if_neg h0]

/-- The accumulators stay below a period (10_state.md R47). -/
theorem accBounded_updateTimer (s : State) (t : Nat) (h : s.AccBounded) : (s.updateTimer t).AccBounded := by
  refine ⟨?_, ?_⟩
  · rw [updateTimer_only]
    exact Nat.mod_lt _ (by decide)
  · unfold updateTimer
    rw [updateTima_timaAcc]
    split
    · have hb := timerPeriod_bounds (s.updateDivider t)
      exact Nat.lt_of_lt_of_le (Nat.mod_lt _ hb.1) hb.2
    · rw [updateDivider_timaAcc]
      exact h.2

/-- The end of a step: none after a fatal error, else the timer update and the interrupt check (R300, R304). -/
theorem finishStep_live (s : State) (h : s.fatal = none) :
    s.finishStep = (s.updateTimer (4 * s.elapsed.getD 0)).handleInterrupts := by
  simp [finishStep, h]

theorem finishStep_fatal (s : State) {r : FatalRecord} (h : s.fatal = some r) : s.finishStep = s := by
  simp [finishStep, h]

/-- The interrupt check changes IME, halted, SP, PC and memory and nothing else (R315). -/
theorem handleInterrupts_only (s : State) :
    s.handleInterrupts =
      { s with
        ime := s.handleInterrupts.ime, halted := s.handleInterrupts.halted, sp := s.handleInterrupts.sp,
        pc := s.handleInterrupts.pc, mem := s.handleInterrupts.mem } := by
  rcases handleInterrupts_cases s with h | ⟨-, n, -, -, -, -, h⟩
  · rw [h]
  · rw [h, enterInterrupt_only]

/-! ### The fields each leaves -/

@[simp] theorem updateTimer_a (s : State) (t : Nat) : (s.updateTimer t).a = s.a := by
  rw [updateTimer_only]

@[simp] theorem updateTimer_f (s : State) (t : Nat) : (s.updateTimer t).f = s.f := by
  rw [updateTimer_only]

@[simp] theorem updateTimer_b (s : State) (t : Nat) : (s.updateTimer t).b = s.b := by
  rw [updateTimer_only]

@[simp] theorem updateTimer_c (s : State) (t : Nat) : (s.updateTimer t).c = s.c := by
  rw [updateTimer_only]

@[simp] theorem updateTimer_d (s : State) (t : Nat) : (s.updateTimer t).d = s.d := by
  rw [updateTimer_only]

@[simp] theorem updateTimer_e (s : State) (t : Nat) : (s.updateTimer t).e = s.e := by
  rw [updateTimer_only]

@[simp] theorem updateTimer_h (s : State) (t : Nat) : (s.updateTimer t).h = s.h := by
  rw [updateTimer_only]

@[simp] theorem updateTimer_l (s : State) (t : Nat) : (s.updateTimer t).l = s.l := by
  rw [updateTimer_only]

@[simp] theorem updateTimer_sp (s : State) (t : Nat) : (s.updateTimer t).sp = s.sp := by
  rw [updateTimer_only]

@[simp] theorem updateTimer_pc (s : State) (t : Nat) : (s.updateTimer t).pc = s.pc := by
  rw [updateTimer_only]

@[simp] theorem updateTimer_ime (s : State) (t : Nat) : (s.updateTimer t).ime = s.ime := by
  rw [updateTimer_only]

@[simp] theorem updateTimer_halted (s : State) (t : Nat) : (s.updateTimer t).halted = s.halted := by
  rw [updateTimer_only]

@[simp] theorem updateTimer_fatal (s : State) (t : Nat) : (s.updateTimer t).fatal = s.fatal := by
  rw [updateTimer_only]

@[simp] theorem updateTimer_elapsed (s : State) (t : Nat) : (s.updateTimer t).elapsed = s.elapsed := by
  rw [updateTimer_only]

@[simp] theorem handleInterrupts_a (s : State) : s.handleInterrupts.a = s.a := by
  rw [handleInterrupts_only]

@[simp] theorem handleInterrupts_f (s : State) : s.handleInterrupts.f = s.f := by
  rw [handleInterrupts_only]

@[simp] theorem handleInterrupts_b (s : State) : s.handleInterrupts.b = s.b := by
  rw [handleInterrupts_only]

@[simp] theorem handleInterrupts_c (s : State) : s.handleInterrupts.c = s.c := by
  rw [handleInterrupts_only]

@[simp] theorem handleInterrupts_d (s : State) : s.handleInterrupts.d = s.d := by
  rw [handleInterrupts_only]

@[simp] theorem handleInterrupts_e (s : State) : s.handleInterrupts.e = s.e := by
  rw [handleInterrupts_only]

@[simp] theorem handleInterrupts_h (s : State) : s.handleInterrupts.h = s.h := by
  rw [handleInterrupts_only]

@[simp] theorem handleInterrupts_l (s : State) : s.handleInterrupts.l = s.l := by
  rw [handleInterrupts_only]

@[simp] theorem handleInterrupts_divAcc (s : State) : s.handleInterrupts.divAcc = s.divAcc := by
  rw [handleInterrupts_only]

@[simp] theorem handleInterrupts_timaAcc (s : State) : s.handleInterrupts.timaAcc = s.timaAcc := by
  rw [handleInterrupts_only]

@[simp] theorem handleInterrupts_fatal (s : State) : s.handleInterrupts.fatal = s.fatal := by
  rw [handleInterrupts_only]

@[simp] theorem handleInterrupts_elapsed (s : State) : s.handleInterrupts.elapsed = s.elapsed := by
  rw [handleInterrupts_only]

end Sys2Proof.Machine.State
end

