-- ==== Sys2Proof/Laws/Step.lean ====
section
/-! SUPPORT. What the step is in a state without a fatal record, when it idles, how a completion is shown, and that
the machine is the configured one at the default parameters. -/

namespace Sys2Proof.Machine

/-- The two forms of the idle test agree (60_exceptions.md R300). -/
theorem State.idles_iff (s : State) : s.idles = true ↔ s.Idling := by
  unfold State.idles State.Idling
  rw [Bool.and_eq_true, Bool.or_eq_true, beq_iff_eq]
  exact Iff.rfl

/-- The step of a live state, in its two forms (R300). -/
theorem step_live (s : State) (h : s.fatal = none) :
    step s = if s.idles then .next s.idleStep else closeStep (exec s.fetched (s.ready s.fetched)) := by
  simp [step, stepBy, h]

/-- The step of a state that holds a fatal record (R305). -/
theorem step_fatal (s : State) {r : FatalRecord} (h : s.fatal = some r) : step s = .fault (.fatalState r) := by
  simp [step, stepBy, h]

/-- What the end of the step makes of an outcome. -/
theorem closeStep_next {o : Host.Outcome State Fault Refusal} {t : State} :
    closeStep o = .next t ↔ ∃ u, o = .next u ∧ t = u.finishStep := by
  cases o <;> simp [closeStep, eq_comm]

/-- A next state comes from a live state, by an idle step or by the instruction at PC (R300). -/
theorem step_next_cases {s t : State} (h : step s = .next t) :
    s.fatal = none ∧
      (s.idles = true ∧ t = s.idleStep ∨
        s.idles = false ∧ ∃ u, exec s.fetched (s.ready s.fetched) = .next u ∧ t = u.finishStep) := by
  cases hf : s.fatal with
  | some r => simp [step_fatal s hf] at h
  | none =>
    rw [step_live s hf] at h
    refine ⟨rfl, ?_⟩
    cases hi : s.idles with
    | true =>
      rw [if_pos hi] at h
      injection h with h
      exact .inl ⟨rfl, h.symm⟩
    | false =>
      rw [if_neg (by simp [hi])] at h
      exact .inr ⟨rfl, closeStep_next.mp h⟩

/-- A meaning that ends in `complete` completes with that count. -/
theorem completes_of_complete {i : Instr} {s u : State} {m : Nat} {p : State → Prop}
    (he : exec i s = complete (some m) u) (hp : p (u.report (some m))) : Completes i s m p :=
  ⟨u.report (some m), he, rfl, hp⟩

/-- The instructions with the default parameters are `exec` (00_scope.md R5). -/
theorem execIn_params : execIn params = exec := by
  funext i s
  cases i <;> rfl

/-- The configured step with the default parameters is `step`. -/
theorem stepIn_params : stepIn params = step := by
  funext s
  rw [stepIn, execIn_params, step]

end Sys2Proof.Machine
end

