-- ==== Sys2Proof/Tests/Slice0.lean ====
section
/-! SUPPORT. The model's own tests. Expected results come from the spec: the worked vectors of spec/95_test_vectors.md (their ids
are in the docstrings), the Example: lines of the rules, and table OB/OC (30_encoding.md) for the words. -/

namespace Sys2Proof.Tests

open Sys2Proof Sys2Proof.Machine

/-- A state with the cells of a list stored. -/
def withMem (cells : List (Word × Byte)) (s : State) : State := cells.foldl (fun t p => t.poke p.1 p.2) s

/-- The outcome is a next state with a property. -/
def nextIs (o : Host.Outcome State Fault Refusal) (p : State → Bool) : Bool :=
  match o with
  | .next t => p t
  | _ => false

/-- One step from `before` ends in `after`, reporting `m` M-cycles that went to the divider's accumulator. -/
def runsTo (before after : State) (m : Nat) : Bool :=
  nextIs (step before) (fun t => t == { after with divAcc := before.divAcc + 4 * m, elapsed := some m })

/-- One step from `before` raises the fatal error and ends in `after`. -/
def endsFatal (before after : State) : Bool := nextIs (step before) (fun t => t == after)

/-! ### Well-formedness -/

/-- The bit-index check refuses 8 in each of its six constructors and accepts 7. -/
theorem test_wellFormed_bitIndex :
    ([Instr.bitBR 8 .b, .bitBHl 8, .resBR 8 .b, .resBHl 8, .setBR 8 .b, .setBHl 8].all (fun i => !i.wellFormed) &&
      [Instr.bitBR 7 .b, .bitBHl 7, .resBR 7 .b, .resBHl 7, .setBR 7 .b, .setBHl 7].all Instr.wellFormed) = true := by decide

/-- The RST-index check refuses 8 and accepts 7. -/
theorem test_wellFormed_rstIndex : ((Instr.rst 8).wellFormed == false && (Instr.rst 7).wellFormed) = true := by decide

/-! ### Decoding: words written out from tables OB and OC -/

/-- Each list of bytes, followed by another byte, decodes to its instruction and leaves that byte. -/
def decodesAll (l : List (List Byte × Instr)) : Bool :=
  l.all (fun p =>
    match decode (p.1 ++ [0xA5]) with
    | .ok (i, rest) => i == p.2 && rest == [0xA5]
    | .error _ => false)

theorem test_decode_loads :
    decodesAll [
      ([0x41], .ldRR .b .c), ([0x7F], .ldRR .a .a), ([0x06, 0x12], .ldRN8 .b 0x12), ([0x3E, 0x3E], .ldRN8 .a 0x3E),
      ([0x56], .ldRHl .d), ([0x7E], .ldRHl .a), ([0x73], .ldHlR .e), ([0x77], .ldHlR .a),
      ([0x36, 0xAA], .ldHlN8 0xAA), ([0x0A], .ldABc), ([0x1A], .ldADe), ([0x02], .ldBcA),
      ([0x12], .ldDeA), ([0x22], .ldHliA), ([0x32], .ldHldA), ([0x2A], .ldAHli),
      ([0x3A], .ldAHld), ([0xEA, 0x07, 0xFF], .ldA16A 0xFF07), ([0xFA, 0x04, 0xFF], .ldAA16 0xFF04), ([0xE0, 0xFF], .ldhA8A 0xFF),
      ([0xF0, 0x05], .ldhAA8 0x05), ([0xE2], .ldCA), ([0xF2], .ldAC), ([0x21, 0x00, 0xC0], .ldRrN16 .hl 0xC000),
      ([0x31, 0xFE, 0xDF], .ldRrN16 .sp 0xDFFE), ([0xF9], .ldSpHl), ([0xF8, 0x08], .ldHlSpE8 0x08), ([0x08, 0x00, 0xC1], .ldA16Sp 0xC100)] = true := by decide

theorem test_decode_incdec :
    decodesAll [
      ([0x04], .incR .b), ([0x3C], .incR .a), ([0x34], .incHl), ([0x05], .decR .b),
      ([0x35], .decHl), ([0x03], .incRr .bc), ([0x33], .incRr .sp), ([0x1B], .decRr .de),
      ([0x3B], .decRr .sp)] = true := by decide

theorem test_decode_arith :
    decodesAll [
      ([0x80], .addAR .b), ([0x87], .addAR .a), ([0x86], .addAHl), ([0xC6, 0x23], .addAN8 0x23),
      ([0x8B], .adcAR .e), ([0x8E], .adcAHl), ([0xCE, 0x3B], .adcAN8 0x3B), ([0x93], .subR .e),
      ([0x96], .subHl), ([0xD6, 0x0F], .subN8 0x0F), ([0x9C], .sbcAR .h), ([0x9E], .sbcAHl),
      ([0xDE, 0x3A], .sbcAN8 0x3A), ([0x09], .addHlRr .bc), ([0x39], .addHlRr .sp), ([0xE8, 0x02], .addSpE8 0x02),
      ([0x27], .daa)] = true := by decide

theorem test_decode_logic :
    decodesAll [
      ([0xA5], .andR .l), ([0xA6], .andHl), ([0xE6, 0x38], .andN8 0x38), ([0xA8], .xorR .b),
      ([0xAE], .xorHl), ([0xEE, 0xFF], .xorN8 0xFF), ([0xB1], .orR .c), ([0xB6], .orHl),
      ([0xF6, 0x0F], .orN8 0x0F), ([0xB8], .cpR .b), ([0xBE], .cpHl), ([0xFE, 0x3C], .cpN8 0x3C),
      ([0x2F], .cpl), ([0x37], .scf), ([0x3F], .ccf)] = true := by decide

theorem test_decode_jumps :
    decodesAll [
      ([0x18, 0xFB], .jrE8 0xFB), ([0x20, 0xFB], .jrCcE8 .nz 0xFB), ([0x38, 0x02], .jrCcE8 .c 0x02), ([0xC3, 0x50, 0x01], .jpA16 0x0150),
      ([0xDA, 0x00, 0x02], .jpCcA16 .c 0x0200), ([0xD2, 0x00, 0x02], .jpCcA16 .nc 0x0200), ([0xE9], .jpHl)] = true := by decide

theorem test_decode_stack :
    decodesAll [
      ([0xCD, 0x00, 0x02], .callA16 0x0200), ([0xCC, 0x00, 0x02], .callCcA16 .z 0x0200), ([0xC9], .ret), ([0xD8], .retCc .c),
      ([0xC0], .retCc .nz), ([0xD9], .reti), ([0xEF], .rst 5), ([0xC7], .rst 0),
      ([0xC5], .pushRr .bc), ([0xE5], .pushRr .hl), ([0xF5], .pushAf), ([0xD1], .popRr .de),
      ([0xF1], .popAf)] = true := by decide

theorem test_decode_system :
    decodesAll [
      ([0x00], .nop), ([0xF3], .di), ([0xFB], .ei), ([0x76], .halt),
      ([0x10], .stop), ([0xD3], .illegalD3), ([0xDB], .illegalDB), ([0xDD], .illegalDD),
      ([0xE3], .illegalE3), ([0xE4], .illegalE4), ([0xEB], .illegalEB), ([0xEC], .illegalEC),
      ([0xED], .illegalED), ([0xF4], .illegalF4), ([0xFC], .illegalFC), ([0xFD], .illegalFD)] = true := by decide

theorem test_decode_rotateCb :
    decodesAll [
      ([0x07], .rlca), ([0x0F], .rrca), ([0x17], .rla), ([0x1F], .rra),
      ([0xCB, 0x00], .rlcR .b), ([0xCB, 0x06], .rlcHl), ([0xCB, 0x09], .rrcR .c), ([0xCB, 0x0E], .rrcHl),
      ([0xCB, 0x15], .rlR .l), ([0xCB, 0x16], .rlHl), ([0xCB, 0x1F], .rrR .a), ([0xCB, 0x1E], .rrHl),
      ([0xCB, 0x22], .slaR .d), ([0xCB, 0x26], .slaHl), ([0xCB, 0x28], .sraR .b), ([0xCB, 0x2E], .sraHl),
      ([0xCB, 0x37], .swapR .a), ([0xCB, 0x36], .swapHl), ([0xCB, 0x3F], .srlR .a), ([0xCB, 0x3E], .srlHl),
      ([0xCB, 0x7C], .bitBR 7 .h), ([0xCB, 0x76], .bitBHl 6), ([0xCB, 0xBF], .resBR 7 .a), ([0xCB, 0x96], .resBHl 2),
      ([0xCB, 0xCB], .setBR 1 .e), ([0xCB, 0xD6], .setBHl 2)] = true := by decide

/-- The decoder names what it rejects: no byte, or an instruction cut short. -/
theorem test_decode_rejects :
    (match decode [], decode [0xCB], decode [0xC3, 0x50], decode [0x00] with
      | .error .noBytes, .error .truncated, .error .truncated, .ok (.nop, []) => true
      | _, _, _, _ => false) = true := by decide

/-- Opcode-table words, bit 0 the least significant bit of the first byte: LD SP,0xDFFE and SWAP A with the operand bytes in
the word, and JP a16 with the operand bits above the word zero. -/
theorem test_decodeTableWord :
    (decodeTableWord 24 0xDFFE31, decodeTableWord 16 0x37CB, decodeTableWord 8 0xC3) =
      (some (.ldRrN16 .sp 0xDFFE), some (.swapR .a), some (.jpA16 0x0000)) := by decide

/-- A placed word is what the next step runs: SET 1,E from reset. -/
theorem test_withFetchWord :
    nextIs (step (State.reset.withFetchWord 16 0xCBCB)) (fun t => t.e == 0xDA && t.pc == 0x0102) = true := by decide

/-! ### One step per instruction -/

/-- `LD r,r'`: LD1, LD2. -/
theorem test_ldRR :
    (runsTo (withMem [(0x0100, 0x41)] { State.reset with c := 0x5A })
        (withMem [(0x0100, 0x41)] { State.reset with c := 0x5A, b := 0x5A, pc := 0x0101 }) 1 &&
      runsTo (withMem [(0x0100, 0x7F)] { State.reset with a := 0x77 })
        (withMem [(0x0100, 0x7F)] { State.reset with a := 0x77, pc := 0x0101 }) 1) = true := by decide

/-- `LD r,n8`: LD3, SY8. -/
theorem test_ldRN8 :
    (runsTo (withMem [(0x0100, 0x3E), (0x0101, 0x77)] State.reset)
        (withMem [(0x0100, 0x3E), (0x0101, 0x77)] { State.reset with a := 0x77, pc := 0x0102 }) 2 &&
      runsTo (withMem [(0x0100, 0x3E), (0x0101, 0xDD)] State.reset)
        (withMem [(0x0100, 0x3E), (0x0101, 0xDD)] { State.reset with a := 0xDD, pc := 0x0102 }) 2) = true := by decide

/-- `LD r,(HL)`: LD4. -/
theorem test_ldRHl :
    (runsTo (withMem [(0x0100, 0x56), (0xC123, 0x9C)] { State.reset with h := 0xC1, l := 0x23 })
        (withMem [(0x0100, 0x56), (0xC123, 0x9C)] { State.reset with h := 0xC1, l := 0x23, d := 0x9C, pc := 0x0101 }) 2) = true := by decide

/-- `LD (HL),r`: LD5. -/
theorem test_ldHlR :
    (runsTo (withMem [(0x0100, 0x73)] { State.reset with h := 0xE0, l := 0x05, e := 0x42 })
        (withMem [(0x0100, 0x73), (0xC005, 0x42), (0xE005, 0x42)] { State.reset with h := 0xE0, l := 0x05, e := 0x42, pc := 0x0101 }) 2) = true := by decide

/-- `LD (HL),n8`: LD6, LD7. -/
theorem test_ldHlN8 :
    (runsTo (withMem [(0x0100, 0x36), (0x0101, 0x99)] { State.reset with h := 0xFE, l := 0xA5 })
        (withMem [(0x0100, 0x36), (0x0101, 0x99)] { State.reset with h := 0xFE, l := 0xA5, pc := 0x0102 }) 3 &&
      runsTo (withMem [(0x0100, 0x36), (0x0101, 0x99)] { State.reset with h := 0xFE, l := 0xFF })
        (withMem [(0x0100, 0x36), (0x0101, 0x99), (0xFEFF, 0x99)] { State.reset with h := 0xFE, l := 0xFF, pc := 0x0102 }) 3) = true := by decide

/-- `LD A,(BC)`: LD8. -/
theorem test_ldABc :
    (runsTo (withMem [(0x0100, 0x0A), (0xC200, 0x12)] { State.reset with b := 0xC2, c := 0x00 })
        (withMem [(0x0100, 0x0A), (0xC200, 0x12)] { State.reset with b := 0xC2, c := 0x00, a := 0x12, pc := 0x0101 }) 2) = true := by decide

/-- `LD A,(DE)`: R127. -/
theorem test_ldADe :
    (runsTo (withMem [(0x0100, 0x1A), (0x0104, 0xCE)] { State.reset with d := 0x01, e := 0x04 })
        (withMem [(0x0100, 0x1A), (0x0104, 0xCE)] { State.reset with d := 0x01, e := 0x04, a := 0xCE, pc := 0x0101 }) 2) = true := by decide

/-- `LD (BC),A`: R128. -/
theorem test_ldBcA :
    (runsTo (withMem [(0x0100, 0x02)] { State.reset with b := 0xC0, c := 0x10, a := 0x09 })
        (withMem [(0x0100, 0x02), (0xC010, 0x09)] { State.reset with b := 0xC0, c := 0x10, a := 0x09, pc := 0x0101 }) 2) = true := by decide

/-- `LD (DE),A`: LD9. -/
theorem test_ldDeA :
    (runsTo (withMem [(0x0100, 0x12)] { State.reset with a := 0xAB, d := 0x80, e := 0x00 })
        (withMem [(0x0100, 0x12), (0x8000, 0xAB)] { State.reset with a := 0xAB, d := 0x80, e := 0x00, pc := 0x0101 }) 2) = true := by decide

/-- `LD (HL+),A`: LD10. -/
theorem test_ldHliA :
    (runsTo (withMem [(0x0100, 0x22)] { State.reset with a := 0x1F, h := 0xFF, l := 0xFF })
        (withMem [(0x0100, 0x22), (0xFFFF, 0x1F)] { State.reset with a := 0x1F, h := 0x00, l := 0x00, pc := 0x0101 }) 2) = true := by decide

/-- `LD (HL-),A`: LD11. -/
theorem test_ldHldA :
    (runsTo (withMem [(0x0100, 0x32)] { State.reset with a := 0x55, h := 0xC0, l := 0x00 })
        (withMem [(0x0100, 0x32), (0xC000, 0x55)] { State.reset with a := 0x55, h := 0xBF, l := 0xFF, pc := 0x0101 }) 2) = true := by decide

/-- `LD A,(HL+)`: LD12. -/
theorem test_ldAHli :
    (runsTo (withMem [(0x0100, 0x2A), (0xC0FF, 0x66)] { State.reset with h := 0xC0, l := 0xFF })
        (withMem [(0x0100, 0x2A), (0xC0FF, 0x66)] { State.reset with h := 0xC1, l := 0x00, a := 0x66, pc := 0x0101 }) 2) = true := by decide

/-- `LD A,(HL-)`: LD13. -/
theorem test_ldAHld :
    (runsTo (withMem [(0x0100, 0x3A)] { State.reset with h := 0x00, l := 0x00 })
        (withMem [(0x0100, 0x3A)] { State.reset with h := 0xFF, l := 0xFF, a := 0x00, pc := 0x0101 }) 2) = true := by decide

/-- `LD (a16),A`: LD14. -/
theorem test_ldA16A :
    (runsTo (withMem [(0x0100, 0xEA), (0x0101, 0x00), (0x0102, 0xC0)] { State.reset with a := 0x3C })
        (withMem [(0x0100, 0xEA), (0x0101, 0x00), (0x0102, 0xC0), (0xC000, 0x3C)] { State.reset with a := 0x3C, pc := 0x0103 }) 4) = true := by decide

/-- `LD A,(a16)`: LD15. -/
theorem test_ldAA16 :
    (runsTo (withMem [(0x0100, 0xFA), (0x0101, 0x00), (0x0102, 0x01)] State.reset)
        (withMem [(0x0100, 0xFA), (0x0101, 0x00), (0x0102, 0x01)] { State.reset with a := 0xFA, pc := 0x0103 }) 4) = true := by decide

/-- `LDH (a8),A`: LD16. -/
theorem test_ldhA8A :
    (runsTo (withMem [(0x0100, 0xE0), (0x0101, 0x07)] { State.reset with a := 0x05 })
        (withMem [(0x0100, 0xE0), (0x0101, 0x07), (0xFF07, 0x05)] { State.reset with a := 0x05, pc := 0x0102, timaAcc := 12 }) 3) = true := by decide

/-- `LDH A,(a8)`: LD17. -/
theorem test_ldhAA8 :
    (runsTo (withMem [(0x0100, 0xF0), (0x0101, 0x0F), (0xFF0F, 0xE4)] State.reset)
        (withMem [(0x0100, 0xF0), (0x0101, 0x0F), (0xFF0F, 0xE4)] { State.reset with a := 0xE4, pc := 0x0102 }) 3) = true := by decide

/-- `LD (C),A`: LD18. -/
theorem test_ldCA :
    (runsTo (withMem [(0x0100, 0xE2)] { State.reset with a := 0x1F, c := 0xFF })
        (withMem [(0x0100, 0xE2), (0xFFFF, 0x1F)] { State.reset with a := 0x1F, c := 0xFF, pc := 0x0101 }) 2) = true := by decide

/-- `LD A,(C)`: LD19. -/
theorem test_ldAC :
    (runsTo (withMem [(0x0100, 0xF2), (0xFF80, 0x7E)] { State.reset with c := 0x80 })
        (withMem [(0x0100, 0xF2), (0xFF80, 0x7E)] { State.reset with c := 0x80, a := 0x7E, pc := 0x0101 }) 2) = true := by decide

/-- `LD rr,n16`: LD20, LD21. -/
theorem test_ldRrN16 :
    (runsTo (withMem [(0x0100, 0x31), (0x0101, 0xFE), (0x0102, 0xDF)] State.reset)
        (withMem [(0x0100, 0x31), (0x0101, 0xFE), (0x0102, 0xDF)] { State.reset with sp := 0xDFFE, pc := 0x0103 }) 3 &&
      runsTo (withMem [(0x0100, 0x01), (0x0101, 0xEF), (0x0102, 0xBE)] State.reset)
        (withMem [(0x0100, 0x01), (0x0101, 0xEF), (0x0102, 0xBE)] { State.reset with b := 0xBE, c := 0xEF, pc := 0x0103 }) 3) = true := by decide

/-- `LD SP,HL`: LD22. -/
theorem test_ldSpHl :
    (runsTo (withMem [(0x0100, 0xF9)] { State.reset with h := 0xC8, l := 0x00 })
        (withMem [(0x0100, 0xF9)] { State.reset with h := 0xC8, l := 0x00, sp := 0xC800, pc := 0x0101 }) 2) = true := by decide

/-- `LD HL,SP+e8`: LD23, LD24, LD25. -/
theorem test_ldHlSpE8 :
    (runsTo (withMem [(0x0100, 0xF8), (0x0101, 0xFE)] { State.reset with sp := 0xFFFE, f := 0x80 })
        (withMem [(0x0100, 0xF8), (0x0101, 0xFE)] { State.reset with sp := 0xFFFE, f := 0x30, h := 0xFF, l := 0xFC, pc := 0x0102 }) 3 &&
      runsTo (withMem [(0x0100, 0xF8), (0x0101, 0x02)] { State.reset with sp := 0xFFFE, f := 0x00 })
        (withMem [(0x0100, 0xF8), (0x0101, 0x02)] { State.reset with sp := 0xFFFE, f := 0x30, h := 0x00, l := 0x00, pc := 0x0102 }) 3 &&
      runsTo (withMem [(0x0100, 0xF8), (0x0101, 0x01)] { State.reset with sp := 0x0000, f := 0xF0 })
        (withMem [(0x0100, 0xF8), (0x0101, 0x01)] { State.reset with sp := 0x0000, f := 0x00, h := 0x00, l := 0x01, pc := 0x0102 }) 3) = true := by decide

/-- `LD (a16),SP`: LD26, LD27. -/
theorem test_ldA16Sp :
    (runsTo (withMem [(0x0100, 0x08), (0x0101, 0xFF), (0x0102, 0xDF)] { State.reset with sp := 0x1234 })
        (withMem [(0x0100, 0x08), (0x0101, 0xFF), (0x0102, 0xDF), (0xC000, 0x12), (0xDFFF, 0x34), (0xE000, 0x12)] { State.reset with sp := 0x1234, pc := 0x0103 }) 5 &&
      runsTo (withMem [(0x0100, 0x08), (0x0101, 0xFF), (0x0102, 0xFF)] { State.reset with sp := 0xABCD })
        (withMem [(0x0100, 0x08), (0x0101, 0xFF), (0x0102, 0xFF), (0x0000, 0xAB), (0xFFFF, 0xCD)] { State.reset with sp := 0xABCD, pc := 0x0103 }) 5) = true := by decide

/-- `INC r`: IN1, IN2, IN3. -/
theorem test_incR :
    (runsTo (withMem [(0x0100, 0x04)] { State.reset with b := 0x0F, f := 0x10 })
        (withMem [(0x0100, 0x04)] { State.reset with b := 0x10, f := 0x30, pc := 0x0101 }) 1 &&
      runsTo (withMem [(0x0100, 0x3C)] { State.reset with a := 0xFF, f := 0x00 })
        (withMem [(0x0100, 0x3C)] { State.reset with a := 0x00, f := 0xA0, pc := 0x0101 }) 1 &&
      runsTo (withMem [(0x0100, 0x3C)] { State.reset with a := 0xFF, f := 0x50 })
        (withMem [(0x0100, 0x3C)] { State.reset with a := 0x00, f := 0xB0, pc := 0x0101 }) 1) = true := by decide

/-- `INC (HL)`: IN7, IN9. -/
theorem test_incHl :
    (runsTo (withMem [(0x0100, 0x34), (0xC000, 0xFF)] { State.reset with h := 0xC0, l := 0x00, f := 0x00 })
        (withMem [(0x0100, 0x34), (0xC000, 0xFF), (0xC000, 0x00)] { State.reset with h := 0xC0, l := 0x00, f := 0xA0, pc := 0x0101 }) 3 &&
      runsTo (withMem [(0x0100, 0x34)] { State.reset with h := 0xFE, l := 0xA0, f := 0x00 })
        (withMem [(0x0100, 0x34)] { State.reset with h := 0xFE, l := 0xA0, f := 0x00, pc := 0x0101 }) 3) = true := by decide

/-- `DEC r`: IN4, IN5, IN6. -/
theorem test_decR :
    (runsTo (withMem [(0x0100, 0x05)] { State.reset with b := 0x01, f := 0x00 })
        (withMem [(0x0100, 0x05)] { State.reset with b := 0x00, f := 0xC0, pc := 0x0101 }) 1 &&
      runsTo (withMem [(0x0100, 0x0D)] { State.reset with c := 0x00, f := 0x00 })
        (withMem [(0x0100, 0x0D)] { State.reset with c := 0xFF, f := 0x60, pc := 0x0101 }) 1 &&
      runsTo (withMem [(0x0100, 0x3D)] { State.reset with a := 0x10, f := 0x10 })
        (withMem [(0x0100, 0x3D)] { State.reset with a := 0x0F, f := 0x70, pc := 0x0101 }) 1) = true := by decide

/-- `DEC (HL)`: IN8. -/
theorem test_decHl :
    (runsTo (withMem [(0x0100, 0x35), (0xE000, 0x01), (0xC000, 0x77)] { State.reset with h := 0xE0, l := 0x00, f := 0x00 })
        (withMem [(0x0100, 0x35), (0xE000, 0x01), (0xC000, 0x77), (0xC000, 0x00), (0xE000, 0x00)] { State.reset with h := 0xE0, l := 0x00, f := 0xC0, pc := 0x0101 }) 3) = true := by decide

/-- `INC rr`: IN10, IN11, IN14. -/
theorem test_incRr :
    (runsTo (withMem [(0x0100, 0x03)] { State.reset with b := 0xFF, c := 0xFF, f := 0x00 })
        (withMem [(0x0100, 0x03)] { State.reset with b := 0x00, c := 0x00, f := 0x00, pc := 0x0101 }) 2 &&
      runsTo (withMem [(0x0100, 0x23)] { State.reset with h := 0x00, l := 0xFF, f := 0xF0 })
        (withMem [(0x0100, 0x23)] { State.reset with h := 0x01, l := 0x00, f := 0xF0, pc := 0x0101 }) 2 &&
      runsTo (withMem [(0x0100, 0x33)] { State.reset with sp := 0xFFFF })
        (withMem [(0x0100, 0x33)] { State.reset with sp := 0x0000, pc := 0x0101 }) 2) = true := by decide

/-- `DEC rr`: IN12, IN13. -/
theorem test_decRr :
    (runsTo (withMem [(0x0100, 0x3B)] { State.reset with sp := 0x0000 })
        (withMem [(0x0100, 0x3B)] { State.reset with sp := 0xFFFF, pc := 0x0101 }) 2 &&
      runsTo (withMem [(0x0100, 0x1B)] { State.reset with d := 0x01, e := 0x00 })
        (withMem [(0x0100, 0x1B)] { State.reset with d := 0x00, e := 0xFF, pc := 0x0101 }) 2) = true := by decide

/-- `ADD A,r`: AR2, AR3. -/
theorem test_addAR :
    (runsTo (withMem [(0x0100, 0x80)] { State.reset with a := 0xFF, b := 0x01, f := 0x00 })
        (withMem [(0x0100, 0x80)] { State.reset with a := 0x00, b := 0x01, f := 0xB0, pc := 0x0101 }) 1 &&
      runsTo (withMem [(0x0100, 0x87)] { State.reset with a := 0x80, f := 0x40 })
        (withMem [(0x0100, 0x87)] { State.reset with a := 0x00, f := 0x90, pc := 0x0101 }) 1) = true := by decide

/-- `ADD A,(HL)`: AR4. -/
theorem test_addAHl :
    (runsTo (withMem [(0x0100, 0x86), (0xC000, 0x01)] { State.reset with a := 0x0F, h := 0xC0, l := 0x00, f := 0x00 })
        (withMem [(0x0100, 0x86), (0xC000, 0x01)] { State.reset with a := 0x10, h := 0xC0, l := 0x00, f := 0x20, pc := 0x0101 }) 2) = true := by decide

/-- `ADD A,n8`: AR1. -/
theorem test_addAN8 :
    (runsTo (withMem [(0x0100, 0xC6), (0x0101, 0x23)] { State.reset with a := 0x3E, f := 0x00 })
        (withMem [(0x0100, 0xC6), (0x0101, 0x23)] { State.reset with a := 0x61, f := 0x20, pc := 0x0102 }) 2) = true := by decide

/-- `ADC A,r`: AR5, AR6. -/
theorem test_adcAR :
    (runsTo (withMem [(0x0100, 0x89)] { State.reset with a := 0x0F, c := 0x00, f := 0x10 })
        (withMem [(0x0100, 0x89)] { State.reset with a := 0x10, c := 0x00, f := 0x20, pc := 0x0101 }) 1 &&
      runsTo (withMem [(0x0100, 0x88)] { State.reset with a := 0xFF, b := 0x00, f := 0x10 })
        (withMem [(0x0100, 0x88)] { State.reset with a := 0x00, b := 0x00, f := 0xB0, pc := 0x0101 }) 1) = true := by decide

/-- `ADC A,(HL)`: R180. -/
theorem test_adcAHl :
    (runsTo (withMem [(0x0100, 0x8E), (0xC000, 0x1E)] { State.reset with a := 0xE1, h := 0xC0, l := 0x00, f := 0x10 })
        (withMem [(0x0100, 0x8E), (0xC000, 0x1E)] { State.reset with a := 0x00, h := 0xC0, l := 0x00, f := 0xB0, pc := 0x0101 }) 2) = true := by decide

/-- `ADC A,n8`: AR7, AR8. -/
theorem test_adcAN8 :
    (runsTo (withMem [(0x0100, 0xCE), (0x0101, 0xFF)] { State.reset with a := 0xFF, f := 0x10 })
        (withMem [(0x0100, 0xCE), (0x0101, 0xFF)] { State.reset with a := 0xFF, f := 0x30, pc := 0x0102 }) 2 &&
      runsTo (withMem [(0x0100, 0xCE), (0x0101, 0x00)] { State.reset with a := 0x00, f := 0x00 })
        (withMem [(0x0100, 0xCE), (0x0101, 0x00)] { State.reset with a := 0x00, f := 0x80, pc := 0x0102 }) 2) = true := by decide

/-- `SUB r`: AR9, AR11. -/
theorem test_subR :
    (runsTo (withMem [(0x0100, 0x90)] { State.reset with a := 0x10, b := 0x01, f := 0x00 })
        (withMem [(0x0100, 0x90)] { State.reset with a := 0x0F, b := 0x01, f := 0x60, pc := 0x0101 }) 1 &&
      runsTo (withMem [(0x0100, 0x97)] { State.reset with a := 0x5A, f := 0x10 })
        (withMem [(0x0100, 0x97)] { State.reset with a := 0x00, f := 0xC0, pc := 0x0101 }) 1) = true := by decide

/-- `SUB (HL)`: R183. -/
theorem test_subHl :
    (runsTo (withMem [(0x0100, 0x96), (0xC000, 0x40)] { State.reset with a := 0x3E, h := 0xC0, l := 0x00 })
        (withMem [(0x0100, 0x96), (0xC000, 0x40)] { State.reset with a := 0xFE, h := 0xC0, l := 0x00, f := 0x50, pc := 0x0101 }) 2) = true := by decide

/-- `SUB n8`: AR10. -/
theorem test_subN8 :
    (runsTo (withMem [(0x0100, 0xD6), (0x0101, 0x01)] { State.reset with a := 0x00, f := 0x00 })
        (withMem [(0x0100, 0xD6), (0x0101, 0x01)] { State.reset with a := 0xFF, f := 0x70, pc := 0x0102 }) 2) = true := by decide

/-- `SBC A,r`: AR12, AR15. -/
theorem test_sbcAR :
    (runsTo (withMem [(0x0100, 0x98)] { State.reset with a := 0x00, b := 0xFF, f := 0x10 })
        (withMem [(0x0100, 0x98)] { State.reset with a := 0x00, b := 0xFF, f := 0xF0, pc := 0x0101 }) 1 &&
      runsTo (withMem [(0x0100, 0x9F)] { State.reset with a := 0x77, f := 0x10 })
        (withMem [(0x0100, 0x9F)] { State.reset with a := 0xFF, f := 0x70, pc := 0x0101 }) 1) = true := by decide

/-- `SBC A,(HL)`: AR14. -/
theorem test_sbcAHl :
    (runsTo (withMem [(0x0100, 0x9E), (0xC000, 0x4F)] { State.reset with a := 0x3B, h := 0xC0, l := 0x00, f := 0x10 })
        (withMem [(0x0100, 0x9E), (0xC000, 0x4F)] { State.reset with a := 0xEB, h := 0xC0, l := 0x00, f := 0x70, pc := 0x0101 }) 2) = true := by decide

/-- `SBC A,n8`: AR13. -/
theorem test_sbcAN8 :
    (runsTo (withMem [(0x0100, 0xDE), (0x0101, 0x0F)] { State.reset with a := 0x10, f := 0x10 })
        (withMem [(0x0100, 0xDE), (0x0101, 0x0F)] { State.reset with a := 0x00, f := 0xE0, pc := 0x0102 }) 2) = true := by decide

/-- `AND r`: LG1, LG3. -/
theorem test_andR :
    (runsTo (withMem [(0x0100, 0xA5)] { State.reset with a := 0x5A, l := 0x3F, f := 0x10 })
        (withMem [(0x0100, 0xA5)] { State.reset with a := 0x1A, l := 0x3F, f := 0x20, pc := 0x0101 }) 1 &&
      runsTo (withMem [(0x0100, 0xA7)] { State.reset with a := 0x00, f := 0x10 })
        (withMem [(0x0100, 0xA7)] { State.reset with a := 0x00, f := 0xA0, pc := 0x0101 }) 1) = true := by decide

/-- `AND (HL)`: R196. -/
theorem test_andHl :
    (runsTo (withMem [(0x0100, 0xA6)] { State.reset with a := 0x5A, h := 0xC0, l := 0x00 })
        (withMem [(0x0100, 0xA6)] { State.reset with a := 0x00, h := 0xC0, l := 0x00, f := 0xA0, pc := 0x0101 }) 2) = true := by decide

/-- `AND n8`: LG2. -/
theorem test_andN8 :
    (runsTo (withMem [(0x0100, 0xE6), (0x0101, 0x00)] { State.reset with a := 0xFF, f := 0x00 })
        (withMem [(0x0100, 0xE6), (0x0101, 0x00)] { State.reset with a := 0x00, f := 0xA0, pc := 0x0102 }) 2) = true := by decide

/-- `XOR r`: LG4. -/
theorem test_xorR :
    (runsTo (withMem [(0x0100, 0xAF)] { State.reset with a := 0x5A, f := 0x70 })
        (withMem [(0x0100, 0xAF)] { State.reset with a := 0x00, f := 0x80, pc := 0x0101 }) 1) = true := by decide

/-- `XOR (HL)`: R199. -/
theorem test_xorHl :
    (runsTo (withMem [(0x0100, 0xAE), (0xC000, 0x8A)] { State.reset with a := 0xFF, h := 0xC0, l := 0x00 })
        (withMem [(0x0100, 0xAE), (0xC000, 0x8A)] { State.reset with a := 0x75, h := 0xC0, l := 0x00, f := 0x00, pc := 0x0101 }) 2) = true := by decide

/-- `XOR n8`: LG5. -/
theorem test_xorN8 :
    (runsTo (withMem [(0x0100, 0xEE), (0x0101, 0x0F)] { State.reset with a := 0xF0, f := 0xF0 })
        (withMem [(0x0100, 0xEE), (0x0101, 0x0F)] { State.reset with a := 0xFF, f := 0x00, pc := 0x0102 }) 2) = true := by decide

/-- `OR r`: LG6. -/
theorem test_orR :
    (runsTo (withMem [(0x0100, 0xB1)] { State.reset with a := 0x00, c := 0x00, f := 0x70 })
        (withMem [(0x0100, 0xB1)] { State.reset with a := 0x00, c := 0x00, f := 0x80, pc := 0x0101 }) 1) = true := by decide

/-- `OR (HL)`: LG7. -/
theorem test_orHl :
    (runsTo (withMem [(0x0100, 0xB6), (0xC000, 0x0A)] { State.reset with a := 0x50, h := 0xC0, l := 0x00, f := 0x00 })
        (withMem [(0x0100, 0xB6), (0xC000, 0x0A)] { State.reset with a := 0x5A, h := 0xC0, l := 0x00, f := 0x00, pc := 0x0101 }) 2) = true := by decide

/-- `OR n8`: R203. -/
theorem test_orN8 :
    (runsTo (withMem [(0x0100, 0xF6), (0x0101, 0x0F)] { State.reset with a := 0x5A })
        (withMem [(0x0100, 0xF6), (0x0101, 0x0F)] { State.reset with a := 0x5F, f := 0x00, pc := 0x0102 }) 2) = true := by decide

/-- `CP r`: LG8, LG11. -/
theorem test_cpR :
    (runsTo (withMem [(0x0100, 0xB8)] { State.reset with a := 0x3C, b := 0x2F, f := 0x00 })
        (withMem [(0x0100, 0xB8)] { State.reset with a := 0x3C, b := 0x2F, f := 0x60, pc := 0x0101 }) 1 &&
      runsTo (withMem [(0x0100, 0xBF)] { State.reset with a := 0x00, f := 0x00 })
        (withMem [(0x0100, 0xBF)] { State.reset with a := 0x00, f := 0xC0, pc := 0x0101 }) 1) = true := by decide

/-- `CP (HL)`: R205. -/
theorem test_cpHl :
    (runsTo (withMem [(0x0100, 0xBE), (0xC000, 0x40)] { State.reset with a := 0x3C, h := 0xC0, l := 0x00 })
        (withMem [(0x0100, 0xBE), (0xC000, 0x40)] { State.reset with a := 0x3C, h := 0xC0, l := 0x00, f := 0x50, pc := 0x0101 }) 2) = true := by decide

/-- `CP n8`: LG9, LG10. -/
theorem test_cpN8 :
    (runsTo (withMem [(0x0100, 0xFE), (0x0101, 0x40)] { State.reset with a := 0x3C, f := 0x00 })
        (withMem [(0x0100, 0xFE), (0x0101, 0x40)] { State.reset with a := 0x3C, f := 0x50, pc := 0x0102 }) 2 &&
      runsTo (withMem [(0x0100, 0xFE), (0x0101, 0x3C)] { State.reset with a := 0x3C, f := 0x10 })
        (withMem [(0x0100, 0xFE), (0x0101, 0x3C)] { State.reset with a := 0x3C, f := 0xC0, pc := 0x0102 }) 2) = true := by decide

/-- `ADD HL,rr`: AR16, AR17, AR18, AR19. -/
theorem test_addHlRr :
    (runsTo (withMem [(0x0100, 0x09)] { State.reset with h := 0x0F, l := 0xFF, b := 0x00, c := 0x01, f := 0x80 })
        (withMem [(0x0100, 0x09)] { State.reset with h := 0x10, l := 0x00, b := 0x00, c := 0x01, f := 0xA0, pc := 0x0101 }) 2 &&
      runsTo (withMem [(0x0100, 0x19)] { State.reset with h := 0x80, l := 0x00, d := 0x80, e := 0x00, f := 0x00 })
        (withMem [(0x0100, 0x19)] { State.reset with h := 0x00, l := 0x00, d := 0x80, e := 0x00, f := 0x10, pc := 0x0101 }) 2 &&
      runsTo (withMem [(0x0100, 0x29)] { State.reset with h := 0x8A, l := 0x23, f := 0xC0 })
        (withMem [(0x0100, 0x29)] { State.reset with h := 0x14, l := 0x46, f := 0xB0, pc := 0x0101 }) 2 &&
      runsTo (withMem [(0x0100, 0x39)] { State.reset with h := 0x00, l := 0x01, sp := 0xFFFF, f := 0x00 })
        (withMem [(0x0100, 0x39)] { State.reset with h := 0x00, l := 0x00, sp := 0xFFFF, f := 0x30, pc := 0x0101 }) 2) = true := by decide

/-- `ADD SP,e8`: AR20, AR21, AR22, AR23. -/
theorem test_addSpE8 :
    (runsTo (withMem [(0x0100, 0xE8), (0x0101, 0x01)] { State.reset with sp := 0x00FF, f := 0xC0 })
        (withMem [(0x0100, 0xE8), (0x0101, 0x01)] { State.reset with sp := 0x0100, f := 0x30, pc := 0x0102 }) 4 &&
      runsTo (withMem [(0x0100, 0xE8), (0x0101, 0xFF)] { State.reset with sp := 0x0000, f := 0x00 })
        (withMem [(0x0100, 0xE8), (0x0101, 0xFF)] { State.reset with sp := 0xFFFF, f := 0x00, pc := 0x0102 }) 4 &&
      runsTo (withMem [(0x0100, 0xE8), (0x0101, 0xFE)] { State.reset with sp := 0xFFFE, f := 0x00 })
        (withMem [(0x0100, 0xE8), (0x0101, 0xFE)] { State.reset with sp := 0xFFFC, f := 0x30, pc := 0x0102 }) 4 &&
      runsTo (withMem [(0x0100, 0xE8), (0x0101, 0x80)] { State.reset with sp := 0x0080, f := 0x00 })
        (withMem [(0x0100, 0xE8), (0x0101, 0x80)] { State.reset with sp := 0x0000, f := 0x10, pc := 0x0102 }) 4) = true := by decide

/-- `DAA`: AR24, AR25, AR26, AR27, AR28, AR29. -/
theorem test_daa :
    (runsTo (withMem [(0x0100, 0x27)] { State.reset with a := 0x3C, f := 0x00 })
        (withMem [(0x0100, 0x27)] { State.reset with a := 0x42, f := 0x00, pc := 0x0101 }) 1 &&
      runsTo (withMem [(0x0100, 0x27)] { State.reset with a := 0x9A, f := 0x00 })
        (withMem [(0x0100, 0x27)] { State.reset with a := 0x00, f := 0x90, pc := 0x0101 }) 1 &&
      runsTo (withMem [(0x0100, 0x27)] { State.reset with a := 0x2D, f := 0x60 })
        (withMem [(0x0100, 0x27)] { State.reset with a := 0x27, f := 0x40, pc := 0x0101 }) 1 &&
      runsTo (withMem [(0x0100, 0x27)] { State.reset with a := 0x00, f := 0x00 })
        (withMem [(0x0100, 0x27)] { State.reset with a := 0x00, f := 0x80, pc := 0x0101 }) 1 &&
      runsTo (withMem [(0x0100, 0x27)] { State.reset with a := 0x32, f := 0x30 })
        (withMem [(0x0100, 0x27)] { State.reset with a := 0x98, f := 0x10, pc := 0x0101 }) 1 &&
      runsTo (withMem [(0x0100, 0x27)] { State.reset with a := 0xFF, f := 0x50 })
        (withMem [(0x0100, 0x27)] { State.reset with a := 0x9F, f := 0x50, pc := 0x0101 }) 1) = true := by decide

/-- `CPL`: LG12, LG13. -/
theorem test_cpl :
    (runsTo (withMem [(0x0100, 0x2F)] { State.reset with a := 0x35, f := 0x80 })
        (withMem [(0x0100, 0x2F)] { State.reset with a := 0xCA, f := 0xE0, pc := 0x0101 }) 1 &&
      runsTo (withMem [(0x0100, 0x2F)] { State.reset with a := 0xFF, f := 0x10 })
        (withMem [(0x0100, 0x2F)] { State.reset with a := 0x00, f := 0x70, pc := 0x0101 }) 1) = true := by decide

/-- `SCF`: LG14. -/
theorem test_scf :
    (runsTo (withMem [(0x0100, 0x37)] { State.reset with f := 0xE0 })
        (withMem [(0x0100, 0x37)] { State.reset with f := 0x90, pc := 0x0101 }) 1) = true := by decide

/-- `CCF`: LG15, LG16. -/
theorem test_ccf :
    (runsTo (withMem [(0x0100, 0x3F)] { State.reset with f := 0xF0 })
        (withMem [(0x0100, 0x3F)] { State.reset with f := 0x80, pc := 0x0101 }) 1 &&
      runsTo (withMem [(0x0100, 0x3F)] { State.reset with f := 0x00 })
        (withMem [(0x0100, 0x3F)] { State.reset with f := 0x10, pc := 0x0101 }) 1) = true := by decide

/-- `JR e8`: JP1, JP2, JP3, JP4, JP5. -/
theorem test_jrE8 :
    (runsTo (withMem [(0x0100, 0x18), (0x0101, 0x05)] State.reset)
        (withMem [(0x0100, 0x18), (0x0101, 0x05)] { State.reset with pc := 0x0107 }) 3 &&
      runsTo (withMem [(0x0100, 0x18), (0x0101, 0xFB)] State.reset)
        (withMem [(0x0100, 0x18), (0x0101, 0xFB)] { State.reset with pc := 0x00FD }) 3 &&
      runsTo (withMem [(0x0100, 0x18), (0x0101, 0xFE)] State.reset)
        (withMem [(0x0100, 0x18), (0x0101, 0xFE)] State.reset) 3 &&
      runsTo (withMem [(0x0100, 0x18), (0x0101, 0x80)] State.reset)
        (withMem [(0x0100, 0x18), (0x0101, 0x80)] { State.reset with pc := 0x0082 }) 3 &&
      runsTo (withMem [(0x0100, 0x18), (0x0101, 0x7F)] State.reset)
        (withMem [(0x0100, 0x18), (0x0101, 0x7F)] { State.reset with pc := 0x0181 }) 3) = true := by decide

/-- `JR cc,e8`: JP6, JP7, JP8, JP9, JP10, JP11, JP12, JP13. -/
theorem test_jrCcE8 :
    (runsTo (withMem [(0x0100, 0x20), (0x0101, 0xFB)] { State.reset with f := 0x00 })
        (withMem [(0x0100, 0x20), (0x0101, 0xFB)] { State.reset with f := 0x00, pc := 0x00FD }) 3 &&
      runsTo (withMem [(0x0100, 0x20), (0x0101, 0xFB)] { State.reset with f := 0x80 })
        (withMem [(0x0100, 0x20), (0x0101, 0xFB)] { State.reset with f := 0x80, pc := 0x0102 }) 2 &&
      runsTo (withMem [(0x0100, 0x28), (0x0101, 0x02)] { State.reset with f := 0x80 })
        (withMem [(0x0100, 0x28), (0x0101, 0x02)] { State.reset with f := 0x80, pc := 0x0104 }) 3 &&
      runsTo (withMem [(0x0100, 0x28), (0x0101, 0x02)] { State.reset with f := 0x70 })
        (withMem [(0x0100, 0x28), (0x0101, 0x02)] { State.reset with f := 0x70, pc := 0x0102 }) 2 &&
      runsTo (withMem [(0x0100, 0x30), (0x0101, 0x02)] { State.reset with f := 0xE0 })
        (withMem [(0x0100, 0x30), (0x0101, 0x02)] { State.reset with f := 0xE0, pc := 0x0104 }) 3 &&
      runsTo (withMem [(0x0100, 0x30), (0x0101, 0x02)] { State.reset with f := 0x10 })
        (withMem [(0x0100, 0x30), (0x0101, 0x02)] { State.reset with f := 0x10, pc := 0x0102 }) 2 &&
      runsTo (withMem [(0x0100, 0x38), (0x0101, 0x02)] { State.reset with f := 0x10 })
        (withMem [(0x0100, 0x38), (0x0101, 0x02)] { State.reset with f := 0x10, pc := 0x0104 }) 3 &&
      runsTo (withMem [(0x0100, 0x38), (0x0101, 0x02)] { State.reset with f := 0xE0 })
        (withMem [(0x0100, 0x38), (0x0101, 0x02)] { State.reset with f := 0xE0, pc := 0x0102 }) 2) = true := by decide

/-- `JP a16`: JP14. -/
theorem test_jpA16 :
    (runsTo (withMem [(0x0100, 0xC3), (0x0101, 0x50), (0x0102, 0x01)] State.reset)
        (withMem [(0x0100, 0xC3), (0x0101, 0x50), (0x0102, 0x01)] { State.reset with pc := 0x0150 }) 4) = true := by decide

/-- `JP cc,a16`: JP15, JP16, JP17, JP18. -/
theorem test_jpCcA16 :
    (runsTo (withMem [(0x0100, 0xC2), (0x0101, 0x00), (0x0102, 0x02)] { State.reset with f := 0x80 })
        (withMem [(0x0100, 0xC2), (0x0101, 0x00), (0x0102, 0x02)] { State.reset with f := 0x80, pc := 0x0103 }) 3 &&
      runsTo (withMem [(0x0100, 0xCA), (0x0101, 0x00), (0x0102, 0x02)] { State.reset with f := 0x80 })
        (withMem [(0x0100, 0xCA), (0x0101, 0x00), (0x0102, 0x02)] { State.reset with f := 0x80, pc := 0x0200 }) 4 &&
      runsTo (withMem [(0x0100, 0xD2), (0x0101, 0x00), (0x0102, 0x02)] { State.reset with f := 0x00 })
        (withMem [(0x0100, 0xD2), (0x0101, 0x00), (0x0102, 0x02)] { State.reset with f := 0x00, pc := 0x0200 }) 4 &&
      runsTo (withMem [(0x0100, 0xDA), (0x0101, 0x00), (0x0102, 0x02)] { State.reset with f := 0x00 })
        (withMem [(0x0100, 0xDA), (0x0101, 0x00), (0x0102, 0x02)] { State.reset with f := 0x00, pc := 0x0103 }) 3) = true := by decide

/-- `JP HL`: JP19. -/
theorem test_jpHl :
    (runsTo (withMem [(0x0100, 0xE9)] { State.reset with h := 0xC1, l := 0x23 })
        (withMem [(0x0100, 0xE9)] { State.reset with h := 0xC1, l := 0x23, pc := 0xC123 }) 1) = true := by decide

/-- `CALL a16`: CL1. -/
theorem test_callA16 :
    (runsTo (withMem [(0x0100, 0xCD), (0x0101, 0x00), (0x0102, 0x02)] State.reset)
        (withMem [(0x0100, 0xCD), (0x0101, 0x00), (0x0102, 0x02), (0xFFFC, 0x03), (0xFFFD, 0x01)] { State.reset with sp := 0xFFFC, pc := 0x0200 }) 6) = true := by decide

/-- `CALL cc,a16`: CL2, CL3, CL4, CL5. -/
theorem test_callCcA16 :
    (runsTo (withMem [(0x0100, 0xCC), (0x0101, 0x00), (0x0102, 0x02)] { State.reset with f := 0x00 })
        (withMem [(0x0100, 0xCC), (0x0101, 0x00), (0x0102, 0x02)] { State.reset with f := 0x00, pc := 0x0103 }) 3 &&
      runsTo (withMem [(0x0100, 0xCC), (0x0101, 0x00), (0x0102, 0x02)] { State.reset with f := 0x80 })
        (withMem [(0x0100, 0xCC), (0x0101, 0x00), (0x0102, 0x02), (0xFFFC, 0x03), (0xFFFD, 0x01)] { State.reset with f := 0x80, sp := 0xFFFC, pc := 0x0200 }) 6 &&
      runsTo (withMem [(0x0100, 0xD4), (0x0101, 0x00), (0x0102, 0x02)] { State.reset with f := 0x10 })
        (withMem [(0x0100, 0xD4), (0x0101, 0x00), (0x0102, 0x02)] { State.reset with f := 0x10, pc := 0x0103 }) 3 &&
      runsTo (withMem [(0x0100, 0xDC), (0x0101, 0x00), (0x0102, 0x02)] { State.reset with f := 0x10, sp := 0xE002 })
        (withMem [(0x0100, 0xDC), (0x0101, 0x00), (0x0102, 0x02), (0xC000, 0x03), (0xC001, 0x01), (0xE000, 0x03), (0xE001, 0x01)] { State.reset with f := 0x10, sp := 0xE000, pc := 0x0200 }) 6) = true := by decide

/-- `RET`: CL6. -/
theorem test_ret :
    (runsTo (withMem [(0x0100, 0xC9), (0xFFFC, 0x53), (0xFFFD, 0x01)] { State.reset with sp := 0xFFFC })
        (withMem [(0x0100, 0xC9), (0xFFFC, 0x53), (0xFFFD, 0x01)] { State.reset with sp := 0xFFFE, pc := 0x0153 }) 4) = true := by decide

/-- `RET cc`: CL7, CL8. -/
theorem test_retCc :
    (runsTo (withMem [(0x0100, 0xC0), (0xFFFC, 0x53), (0xFFFD, 0x01)] { State.reset with f := 0x80, sp := 0xFFFC })
        (withMem [(0x0100, 0xC0), (0xFFFC, 0x53), (0xFFFD, 0x01)] { State.reset with f := 0x80, sp := 0xFFFC, pc := 0x0101 }) 2 &&
      runsTo (withMem [(0x0100, 0xD8), (0xDFFC, 0x34), (0xDFFD, 0x12)] { State.reset with f := 0x10, sp := 0xDFFC })
        (withMem [(0x0100, 0xD8), (0xDFFC, 0x34), (0xDFFD, 0x12)] { State.reset with f := 0x10, sp := 0xDFFE, pc := 0x1234 }) 5) = true := by decide

/-- `RETI`: CL9. -/
theorem test_reti :
    (runsTo (withMem [(0x0100, 0xD9), (0xFFFC, 0x53), (0xFFFD, 0x01)] { State.reset with ime := false, sp := 0xFFFC })
        (withMem [(0x0100, 0xD9), (0xFFFC, 0x53), (0xFFFD, 0x01)] { State.reset with ime := true, sp := 0xFFFE, pc := 0x0153 }) 4) = true := by decide

/-- `RST t`: CL10, CL11. -/
theorem test_rst :
    (runsTo (withMem [(0x0100, 0xEF)] { State.reset with sp := 0xD000 })
        (withMem [(0x0100, 0xEF), (0xCFFE, 0x01), (0xCFFF, 0x01)] { State.reset with sp := 0xCFFE, pc := 0x0028 }) 4 &&
      runsTo (withMem [(0x0100, 0xC7)] State.reset)
        (withMem [(0x0100, 0xC7), (0xFFFC, 0x01), (0xFFFD, 0x01)] { State.reset with sp := 0xFFFC, pc := 0x0000 }) 4) = true := by decide

/-- `PUSH rr`: CL12, CL14, CL15. -/
theorem test_pushRr :
    (runsTo (withMem [(0x0100, 0xC5)] { State.reset with b := 0x12, c := 0x34 })
        (withMem [(0x0100, 0xC5), (0xFFFC, 0x34), (0xFFFD, 0x12)] { State.reset with b := 0x12, c := 0x34, sp := 0xFFFC, pc := 0x0101 }) 4 &&
      runsTo (withMem [(0x0100, 0xE5)] { State.reset with h := 0xBE, l := 0xEF, sp := 0x0001 })
        (withMem [(0x0100, 0xE5), (0x0000, 0xBE), (0xFFFF, 0xEF)] { State.reset with h := 0xBE, l := 0xEF, sp := 0xFFFF, pc := 0x0101 }) 4 &&
      runsTo (withMem [(0x0100, 0xD5)] { State.reset with d := 0xCA, e := 0xFE, sp := 0xFEA2 })
        (withMem [(0x0100, 0xD5)] { State.reset with d := 0xCA, e := 0xFE, sp := 0xFEA0, pc := 0x0101 }) 4) = true := by decide

/-- `PUSH AF`: CL13. -/
theorem test_pushAf :
    (runsTo (withMem [(0x0100, 0xF5)] { State.reset with a := 0x61, f := 0x20 })
        (withMem [(0x0100, 0xF5), (0xFFFC, 0x20), (0xFFFD, 0x61)] { State.reset with a := 0x61, f := 0x20, sp := 0xFFFC, pc := 0x0101 }) 4) = true := by decide

/-- `POP rr`: CL16, CL18. -/
theorem test_popRr :
    (runsTo (withMem [(0x0100, 0xD1), (0xFFFC, 0x34), (0xFFFD, 0x12)] { State.reset with sp := 0xFFFC })
        (withMem [(0x0100, 0xD1), (0xFFFC, 0x34), (0xFFFD, 0x12)] { State.reset with sp := 0xFFFE, d := 0x12, e := 0x34, pc := 0x0101 }) 3 &&
      runsTo (withMem [(0x0100, 0xE1), (0xFFFF, 0x1F)] { State.reset with sp := 0xFFFF })
        (withMem [(0x0100, 0xE1), (0xFFFF, 0x1F)] { State.reset with sp := 0x0001, h := 0x00, l := 0x1F, pc := 0x0101 }) 3) = true := by decide

/-- `POP AF`: CL17. -/
theorem test_popAf :
    (runsTo (withMem [(0x0100, 0xF1), (0xFFFC, 0x9F), (0xFFFD, 0x12)] { State.reset with sp := 0xFFFC })
        (withMem [(0x0100, 0xF1), (0xFFFC, 0x9F), (0xFFFD, 0x12)] { State.reset with sp := 0xFFFE, a := 0x12, f := 0x90, pc := 0x0101 }) 3) = true := by decide

/-- `NOP`: SY1. -/
theorem test_nop :
    (runsTo (withMem [(0x0100, 0x00)] State.reset)
        (withMem [(0x0100, 0x00)] { State.reset with pc := 0x0101 }) 1) = true := by decide

/-- `DI`: SY2. -/
theorem test_di :
    (runsTo (withMem [(0x0100, 0xF3)] { State.reset with ime := true })
        (withMem [(0x0100, 0xF3)] { State.reset with ime := false, pc := 0x0101 }) 1) = true := by decide

/-- `EI`: SY3. -/
theorem test_ei :
    (runsTo (withMem [(0x0100, 0xFB)] { State.reset with ime := false })
        (withMem [(0x0100, 0xFB)] { State.reset with ime := true, pc := 0x0101 }) 1) = true := by decide

/-- `HALT`: SY4. -/
theorem test_halt :
    (runsTo (withMem [(0x0100, 0x76)] State.reset)
        (withMem [(0x0100, 0x76)] { State.reset with pc := 0x0101, halted := true }) 1) = true := by decide

/-- `RLCA`: RT1, RT2. -/
theorem test_rlca :
    (runsTo (withMem [(0x0100, 0x07)] { State.reset with a := 0x85, f := 0x00 })
        (withMem [(0x0100, 0x07)] { State.reset with a := 0x0B, f := 0x10, pc := 0x0101 }) 1 &&
      runsTo (withMem [(0x0100, 0x07)] { State.reset with a := 0x00, f := 0xF0 })
        (withMem [(0x0100, 0x07)] { State.reset with a := 0x00, f := 0x00, pc := 0x0101 }) 1) = true := by decide

/-- `RRCA`: RT3. -/
theorem test_rrca :
    (runsTo (withMem [(0x0100, 0x0F)] { State.reset with a := 0x3B, f := 0x00 })
        (withMem [(0x0100, 0x0F)] { State.reset with a := 0x9D, f := 0x10, pc := 0x0101 }) 1) = true := by decide

/-- `RLA`: RT4, RT5. -/
theorem test_rla :
    (runsTo (withMem [(0x0100, 0x17)] { State.reset with a := 0x95, f := 0x10 })
        (withMem [(0x0100, 0x17)] { State.reset with a := 0x2B, f := 0x10, pc := 0x0101 }) 1 &&
      runsTo (withMem [(0x0100, 0x17)] { State.reset with a := 0x80, f := 0x00 })
        (withMem [(0x0100, 0x17)] { State.reset with a := 0x00, f := 0x10, pc := 0x0101 }) 1) = true := by decide

/-- `RRA`: RT6, RT7. -/
theorem test_rra :
    (runsTo (withMem [(0x0100, 0x1F)] { State.reset with a := 0x81, f := 0x00 })
        (withMem [(0x0100, 0x1F)] { State.reset with a := 0x40, f := 0x10, pc := 0x0101 }) 1 &&
      runsTo (withMem [(0x0100, 0x1F)] { State.reset with a := 0x00, f := 0x10 })
        (withMem [(0x0100, 0x1F)] { State.reset with a := 0x80, f := 0x00, pc := 0x0101 }) 1) = true := by decide

/-- `RLC r`: RT8. -/
theorem test_rlcR :
    (runsTo (withMem [(0x0100, 0xCB), (0x0101, 0x00)] { State.reset with b := 0x85, f := 0x00 })
        (withMem [(0x0100, 0xCB), (0x0101, 0x00)] { State.reset with b := 0x0B, f := 0x10, pc := 0x0102 }) 2) = true := by decide

/-- `RLC (HL)`: RT9. -/
theorem test_rlcHl :
    (runsTo (withMem [(0x0100, 0xCB), (0x0101, 0x06)] { State.reset with h := 0xC0, l := 0x00, f := 0x10 })
        (withMem [(0x0100, 0xCB), (0x0101, 0x06)] { State.reset with h := 0xC0, l := 0x00, f := 0x80, pc := 0x0102 }) 4) = true := by decide

/-- `RRC r`: RT10. -/
theorem test_rrcR :
    (runsTo (withMem [(0x0100, 0xCB), (0x0101, 0x09)] { State.reset with c := 0x01, f := 0x00 })
        (withMem [(0x0100, 0xCB), (0x0101, 0x09)] { State.reset with c := 0x80, f := 0x10, pc := 0x0102 }) 2) = true := by decide

/-- `RRC (HL)`: R258. -/
theorem test_rrcHl :
    (runsTo (withMem [(0x0100, 0xCB), (0x0101, 0x0E), (0xC000, 0x02)] { State.reset with h := 0xC0, l := 0x00 })
        (withMem [(0x0100, 0xCB), (0x0101, 0x0E), (0xC000, 0x02), (0xC000, 0x01)] { State.reset with h := 0xC0, l := 0x00, f := 0x00, pc := 0x0102 }) 4) = true := by decide

/-- `RL r`: RT11, RT12. -/
theorem test_rlR :
    (runsTo (withMem [(0x0100, 0xCB), (0x0101, 0x15)] { State.reset with l := 0x80, f := 0x00 })
        (withMem [(0x0100, 0xCB), (0x0101, 0x15)] { State.reset with l := 0x00, f := 0x90, pc := 0x0102 }) 2 &&
      runsTo (withMem [(0x0100, 0xCB), (0x0101, 0x17)] { State.reset with a := 0x00, f := 0x10 })
        (withMem [(0x0100, 0xCB), (0x0101, 0x17)] { State.reset with a := 0x01, f := 0x00, pc := 0x0102 }) 2) = true := by decide

/-- `RL (HL)`: R260. -/
theorem test_rlHl :
    (runsTo (withMem [(0x0100, 0xCB), (0x0101, 0x16), (0xC000, 0x11)] { State.reset with h := 0xC0, l := 0x00, f := 0x00 })
        (withMem [(0x0100, 0xCB), (0x0101, 0x16), (0xC000, 0x11), (0xC000, 0x22)] { State.reset with h := 0xC0, l := 0x00, f := 0x00, pc := 0x0102 }) 4) = true := by decide

/-- `RR r`: RT13. -/
theorem test_rrR :
    (runsTo (withMem [(0x0100, 0xCB), (0x0101, 0x1F)] { State.reset with a := 0x01, f := 0x00 })
        (withMem [(0x0100, 0xCB), (0x0101, 0x1F)] { State.reset with a := 0x00, f := 0x90, pc := 0x0102 }) 2) = true := by decide

/-- `RR (HL)`: RT14. -/
theorem test_rrHl :
    (runsTo (withMem [(0x0100, 0xCB), (0x0101, 0x1E), (0xC000, 0x8A)] { State.reset with h := 0xC0, l := 0x00, f := 0x10 })
        (withMem [(0x0100, 0xCB), (0x0101, 0x1E), (0xC000, 0x8A), (0xC000, 0xC5)] { State.reset with h := 0xC0, l := 0x00, f := 0x00, pc := 0x0102 }) 4) = true := by decide

/-- `SLA r`: RT15. -/
theorem test_slaR :
    (runsTo (withMem [(0x0100, 0xCB), (0x0101, 0x22)] { State.reset with d := 0x80, f := 0x00 })
        (withMem [(0x0100, 0xCB), (0x0101, 0x22)] { State.reset with d := 0x00, f := 0x90, pc := 0x0102 }) 2) = true := by decide

/-- `SLA (HL)`: RT16. -/
theorem test_slaHl :
    (runsTo (withMem [(0x0100, 0xCB), (0x0101, 0x26), (0xE000, 0xFF)] { State.reset with h := 0xE0, l := 0x00, f := 0x00 })
        (withMem [(0x0100, 0xCB), (0x0101, 0x26), (0xE000, 0xFF), (0xC000, 0xFE), (0xE000, 0xFE)] { State.reset with h := 0xE0, l := 0x00, f := 0x10, pc := 0x0102 }) 4) = true := by decide

/-- `SRA r`: RT17, RT18. -/
theorem test_sraR :
    (runsTo (withMem [(0x0100, 0xCB), (0x0101, 0x2F)] { State.reset with a := 0x8A, f := 0x00 })
        (withMem [(0x0100, 0xCB), (0x0101, 0x2F)] { State.reset with a := 0xC5, f := 0x00, pc := 0x0102 }) 2 &&
      runsTo (withMem [(0x0100, 0xCB), (0x0101, 0x28)] { State.reset with b := 0xFF, f := 0x00 })
        (withMem [(0x0100, 0xCB), (0x0101, 0x28)] { State.reset with b := 0xFF, f := 0x10, pc := 0x0102 }) 2) = true := by decide

/-- `SRA (HL)`: RT19. -/
theorem test_sraHl :
    (runsTo (withMem [(0x0100, 0xCB), (0x0101, 0x2E), (0xC000, 0x01)] { State.reset with h := 0xC0, l := 0x00, f := 0x00 })
        (withMem [(0x0100, 0xCB), (0x0101, 0x2E), (0xC000, 0x01), (0xC000, 0x00)] { State.reset with h := 0xC0, l := 0x00, f := 0x90, pc := 0x0102 }) 4) = true := by decide

/-- `SWAP r`: RT20, RT21. -/
theorem test_swapR :
    (runsTo (withMem [(0x0100, 0xCB), (0x0101, 0x37)] { State.reset with a := 0xF1, f := 0x10 })
        (withMem [(0x0100, 0xCB), (0x0101, 0x37)] { State.reset with a := 0x1F, f := 0x00, pc := 0x0102 }) 2 &&
      runsTo (withMem [(0x0100, 0xCB), (0x0101, 0x33)] { State.reset with e := 0x00, f := 0x10 })
        (withMem [(0x0100, 0xCB), (0x0101, 0x33)] { State.reset with e := 0x00, f := 0x80, pc := 0x0102 }) 2) = true := by decide

/-- `SWAP (HL)`: R268. -/
theorem test_swapHl :
    (runsTo (withMem [(0x0100, 0xCB), (0x0101, 0x36), (0xC000, 0xA5)] { State.reset with h := 0xC0, l := 0x00 })
        (withMem [(0x0100, 0xCB), (0x0101, 0x36), (0xC000, 0xA5), (0xC000, 0x5A)] { State.reset with h := 0xC0, l := 0x00, f := 0x00, pc := 0x0102 }) 4) = true := by decide

/-- `SRL r`: RT22. -/
theorem test_srlR :
    (runsTo (withMem [(0x0100, 0xCB), (0x0101, 0x3F)] { State.reset with a := 0xFF, f := 0x00 })
        (withMem [(0x0100, 0xCB), (0x0101, 0x3F)] { State.reset with a := 0x7F, f := 0x10, pc := 0x0102 }) 2) = true := by decide

/-- `SRL (HL)`: RT23. -/
theorem test_srlHl :
    (runsTo (withMem [(0x0100, 0xCB), (0x0101, 0x3E)] { State.reset with h := 0xFE, l := 0xA0, f := 0x00 })
        (withMem [(0x0100, 0xCB), (0x0101, 0x3E)] { State.reset with h := 0xFE, l := 0xA0, f := 0x80, pc := 0x0102 }) 4) = true := by decide

/-- `BIT b,r`: RT24, RT25. -/
theorem test_bitBR :
    (runsTo (withMem [(0x0100, 0xCB), (0x0101, 0x7C)] { State.reset with h := 0x80, f := 0x10 })
        (withMem [(0x0100, 0xCB), (0x0101, 0x7C)] { State.reset with h := 0x80, f := 0x30, pc := 0x0102 }) 2 &&
      runsTo (withMem [(0x0100, 0xCB), (0x0101, 0x7C)] { State.reset with h := 0x7F, f := 0x10 })
        (withMem [(0x0100, 0xCB), (0x0101, 0x7C)] { State.reset with h := 0x7F, f := 0xB0, pc := 0x0102 }) 2) = true := by decide

/-- `BIT b,(HL)`: RT26, RT27. -/
theorem test_bitBHl :
    (runsTo (withMem [(0x0100, 0xCB), (0x0101, 0x46), (0xC000, 0xFE)] { State.reset with h := 0xC0, l := 0x00, f := 0x00 })
        (withMem [(0x0100, 0xCB), (0x0101, 0x46), (0xC000, 0xFE)] { State.reset with h := 0xC0, l := 0x00, f := 0xA0, pc := 0x0102 }) 3 &&
      runsTo (withMem [(0x0100, 0xCB), (0x0101, 0x76), (0xC000, 0x40)] { State.reset with h := 0xC0, l := 0x00, f := 0x00 })
        (withMem [(0x0100, 0xCB), (0x0101, 0x76), (0xC000, 0x40)] { State.reset with h := 0xC0, l := 0x00, f := 0x20, pc := 0x0102 }) 3) = true := by decide

/-- `RES b,r`: RT28. -/
theorem test_resBR :
    (runsTo (withMem [(0x0100, 0xCB), (0x0101, 0xBF)] { State.reset with a := 0xFF })
        (withMem [(0x0100, 0xCB), (0x0101, 0xBF)] { State.reset with a := 0x7F, pc := 0x0102 }) 2) = true := by decide

/-- `RES b,(HL)`: RT29. -/
theorem test_resBHl :
    (runsTo (withMem [(0x0100, 0xCB), (0x0101, 0x96), (0xFF0F, 0x05)] { State.reset with h := 0xFF, l := 0x0F })
        (withMem [(0x0100, 0xCB), (0x0101, 0x96), (0xFF0F, 0x05), (0xFF0F, 0x01)] { State.reset with h := 0xFF, l := 0x0F, pc := 0x0102 }) 4) = true := by decide

/-- `SET b,r`: RT30, RT32. -/
theorem test_setBR :
    (runsTo (withMem [(0x0100, 0xCB), (0x0101, 0xD8)] { State.reset with b := 0x00 })
        (withMem [(0x0100, 0xCB), (0x0101, 0xD8)] { State.reset with b := 0x08, pc := 0x0102 }) 2 &&
      runsTo (withMem [(0x0100, 0xCB), (0x0101, 0xCB)] { State.reset with e := 0x00 })
        (withMem [(0x0100, 0xCB), (0x0101, 0xCB)] { State.reset with e := 0x02, pc := 0x0102 }) 2) = true := by decide

/-- `SET b,(HL)`: RT31. -/
theorem test_setBHl :
    (runsTo (withMem [(0x0100, 0xCB), (0x0101, 0xD6), (0xFF07, 0x01)] { State.reset with h := 0xFF, l := 0x07 })
        (withMem [(0x0100, 0xCB), (0x0101, 0xD6), (0xFF07, 0x01), (0xFF05, 0x01), (0xFF07, 0x05)] { State.reset with h := 0xFF, l := 0x07, pc := 0x0102 }) 4) = true := by decide

/-- The prefix's meaning is the selected instruction's: R245's example, SWAP A. -/
theorem test_prefixCb :
    nextIs (exec (.prefixCb 0x37) { State.reset with a := 0xF1 })
      (fun t => t.a == 0x1F && t.f == 0x00 && t.elapsed == some 2) = true := by decide

/-- STOP and the illegal bytes raise the fatal error: SY5, SY6, SY7; the request of SY7 stays pending. -/
theorem test_fatal :
    (endsFatal (withMem [(0x0100, 0x10)] State.reset)
        (withMem [(0x0100, 0x10)] { State.reset with pc := 0x0101, fatal := some ⟨.unimplemented, 0x10, 0x0100⟩ }) &&
      endsFatal (withMem [(0x0100, 0xD3)] State.reset)
        (withMem [(0x0100, 0xD3)] { State.reset with pc := 0x0101, fatal := some ⟨.illegal, 0xD3, 0x0100⟩ }) &&
      endsFatal (withMem [(0x0100, 0xFD), (0xFFFF, 0x01), (0xFF0F, 0x01)] { State.reset with ime := true })
        (withMem [(0x0100, 0xFD), (0xFFFF, 0x01), (0xFF0F, 0x01)]
          { State.reset with ime := true, pc := 0x0101, fatal := some ⟨.illegal, 0xFD, 0x0100⟩ })) = true := by decide

/-- Each of the eleven illegal bytes at 0xC000 is reported with its own value and address (R246). -/
theorem test_illegalBytes :
    illegalBytes.all (fun op =>
      nextIs (step (withMem [(0xC000, op)] { State.reset with pc := 0xC000 }))
        (fun t => t.fatal == some ⟨.illegal, op, 0xC000⟩)) = true := by decide

/-- From a fatal state there is no step: the same error again (R305). -/
theorem test_fatalState_has_no_step :
    (match step { State.reset with fatal := some ⟨.illegal, 0xDD, 0xC000⟩ } with
      | .fault (.fatalState r) => r == ⟨.illegal, 0xDD, 0xC000⟩
      | _ => false) = true := by decide

/-! ### Interrupts -/

/-- I1: three requests, the lowest is serviced. -/
theorem test_I1 :
    runsTo (withMem [(0x0100, 0x00), (0xFF0F, 0x15), (0xFFFF, 0x1F)] { State.reset with ime := true })
      (withMem [(0x0100, 0x00), (0xFF0F, 0x15), (0xFFFF, 0x1F), (0xFF0F, 0x14), (0xFFFD, 0x01), (0xFFFC, 0x01)] { State.reset with ime := false, sp := 0xFFFC, pc := 0x0040 }) 1 = true := by decide

/-- I2: master gate closed. -/
theorem test_I2 :
    runsTo (withMem [(0x0100, 0x00), (0xFF0F, 0x15), (0xFFFF, 0x1F)] State.reset)
      (withMem [(0x0100, 0x00), (0xFF0F, 0x15), (0xFFFF, 0x1F)] { State.reset with pc := 0x0101 }) 1 = true := by decide

/-- I3: a request that is not enabled. -/
theorem test_I3 :
    runsTo (withMem [(0x0100, 0x00), (0xFF0F, 0x05), (0xFFFF, 0x04)] { State.reset with ime := true })
      (withMem [(0x0100, 0x00), (0xFF0F, 0x05), (0xFFFF, 0x04), (0xFF0F, 0x01), (0xFFFD, 0x01), (0xFFFC, 0x01)] { State.reset with ime := false, sp := 0xFFFC, pc := 0x0050 }) 1 = true := by decide

/-- I4: bits 7 to 5 take no part. -/
theorem test_I4 :
    runsTo (withMem [(0x0100, 0x00), (0xFF0F, 0xE0), (0xFFFF, 0xFF)] { State.reset with ime := true })
      (withMem [(0x0100, 0x00), (0xFF0F, 0xE0), (0xFFFF, 0xFF)] { State.reset with ime := true, pc := 0x0101 }) 1 = true := by decide

/-- I5: EI acts at once. -/
theorem test_I5 :
    runsTo (withMem [(0x0100, 0xFB), (0xFF0F, 0x01), (0xFFFF, 0x01)] State.reset)
      (withMem [(0x0100, 0xFB), (0xFF0F, 0x01), (0xFFFF, 0x01), (0xFF0F, 0x00), (0xFFFD, 0x01), (0xFFFC, 0x01)] { State.reset with sp := 0xFFFC, pc := 0x0040 }) 1 = true := by decide

/-- I6: DI acts at once. -/
theorem test_I6 :
    runsTo (withMem [(0x0100, 0xF3), (0xFF0F, 0x01), (0xFFFF, 0x01)] { State.reset with ime := true })
      (withMem [(0x0100, 0xF3), (0xFF0F, 0x01), (0xFFFF, 0x01)] { State.reset with ime := false, pc := 0x0101 }) 1 = true := by decide

/-- I7: RETI is followed by the next pending entry. -/
theorem test_I7 :
    runsTo (withMem [(0x0040, 0xD9), (0xFF0F, 0x02), (0xFFFF, 0x03), (0xFFFC, 0x01), (0xFFFD, 0x01)] { State.reset with pc := 0x0040, sp := 0xFFFC })
      (withMem [(0x0040, 0xD9), (0xFF0F, 0x02), (0xFFFF, 0x03), (0xFFFC, 0x01), (0xFFFD, 0x01), (0xFF0F, 0x00)] { State.reset with pc := 0x0048, sp := 0xFFFC }) 4 = true := by decide

/-- I8: wake with IME: an idle cycle, then entry. -/
theorem test_I8 :
    runsTo (withMem [(0x0100, 0x76), (0x0101, 0x3C), (0xFF0F, 0x10), (0xFFFF, 0x10)] { State.reset with ime := true, halted := true, pc := 0x0101 })
      (withMem [(0x0100, 0x76), (0x0101, 0x3C), (0xFF0F, 0x10), (0xFFFF, 0x10), (0xFF0F, 0x00), (0xFFFD, 0x01), (0xFFFC, 0x01)] { State.reset with ime := false, halted := false, pc := 0x0060, sp := 0xFFFC }) 1 = true := by decide

/-- I9: wake without IME: execution continues. -/
theorem test_I9 :
    runsTo (withMem [(0x0100, 0x76), (0x0101, 0x3C), (0xFF0F, 0x10), (0xFFFF, 0x10)] { State.reset with halted := true, pc := 0x0101, a := 0x10, f := 0x10 })
      (withMem [(0x0100, 0x76), (0x0101, 0x3C), (0xFF0F, 0x10), (0xFFFF, 0x10)] { State.reset with halted := false, pc := 0x0102, a := 0x11, f := 0x10 }) 1 = true := by decide

/-- I11: HALT with a request pending and IME. -/
theorem test_I11 :
    runsTo (withMem [(0x0100, 0x76), (0xFF0F, 0x04), (0xFFFF, 0x04)] { State.reset with ime := true })
      (withMem [(0x0100, 0x76), (0xFF0F, 0x04), (0xFFFF, 0x04), (0xFF0F, 0x00), (0xFFFD, 0x01), (0xFFFC, 0x01)] { State.reset with ime := false, sp := 0xFFFC, pc := 0x0050 }) 1 = true := by decide

/-- I12: the pushed low byte lands on IF. -/
theorem test_I12 :
    runsTo (withMem [(0x0100, 0x00), (0xFF0F, 0x01), (0xFFFF, 0x01)] { State.reset with ime := true, sp := 0xFF11 })
      (withMem [(0x0100, 0x00), (0xFF0F, 0x01), (0xFFFF, 0x01), (0xFF10, 0x01), (0xFF0F, 0x00)] { State.reset with ime := false, sp := 0xFF0F, pc := 0x0040 }) 1 = true := by decide

/-- I14: SP wraps. -/
theorem test_I14 :
    runsTo (withMem [(0x0100, 0x00), (0xFF0F, 0x01), (0xFFFF, 0x01)] { State.reset with ime := true, sp := 0x0001 })
      (withMem [(0x0100, 0x00), (0xFF0F, 0x01), (0xFFFF, 0x01), (0x0000, 0x01), (0xFF0F, 0x00)] { State.reset with ime := false, sp := 0xFFFF, pc := 0x0040 }) 1 = true := by decide

/-- I16: stack in the echo window. -/
theorem test_I16 :
    runsTo (withMem [(0x0100, 0x00), (0xFF0F, 0x08), (0xFFFF, 0x08)] { State.reset with ime := true, sp := 0xE002 })
      (withMem [(0x0100, 0x00), (0xFF0F, 0x08), (0xFFFF, 0x08), (0xE001, 0x01), (0xC001, 0x01), (0xE000, 0x01), (0xC000, 0x01), (0xFF0F, 0x00)] { State.reset with ime := false, sp := 0xE000, pc := 0x0058 }) 1 = true := by decide

/-- I17: stack in the unusable window. -/
theorem test_I17 :
    runsTo (withMem [(0x0100, 0x00), (0xFF0F, 0x10), (0xFFFF, 0x10)] { State.reset with ime := true, sp := 0xFEB0 })
      (withMem [(0x0100, 0x00), (0xFF0F, 0x10), (0xFFFF, 0x10), (0xFF0F, 0x00)] { State.reset with ime := false, sp := 0xFEAE, pc := 0x0060 }) 1 = true := by decide

/-! ### The divider and the timer -/

theorem test_TIM1 :
    (withMem [(0xFF07, 0x04)] State.reset).updateTimer 70224 =
      (withMem [(0xFF07, 0x04), (0xFF05, 0x44), (0xFF04, 0x12)] { State.reset with timaAcc := 592, divAcc := 80 }) := by decide +kernel

theorem test_TIM2 :
    (withMem [(0xFF07, 0x04), (0xFF05, 0xF0), (0xFF06, 0x80)] State.reset).updateTimer 70224 =
      (withMem [(0xFF07, 0x04), (0xFF05, 0xF0), (0xFF06, 0x80), (0xFF05, 0xB4), (0xFF0F, 0x04), (0xFF04, 0x12)] { State.reset with timaAcc := 592, divAcc := 80 }) := by decide +kernel

theorem test_TIM3 :
    (withMem [(0xFF07, 0x05), (0xFF05, 0xFF), (0xFF06, 0xAB)] State.reset).updateTimer 16 =
      (withMem [(0xFF07, 0x05), (0xFF05, 0xFF), (0xFF06, 0xAB), (0xFF05, 0xAB), (0xFF0F, 0x04)] { State.reset with divAcc := 16 }) := by decide

theorem test_TIM5 :
    (withMem [(0xFF07, 0x05), (0xFF05, 0xFF), (0xFF06, 0xFF)] State.reset).updateTimer 48 =
      (withMem [(0xFF07, 0x05), (0xFF05, 0xFF), (0xFF06, 0xFF), (0xFF0F, 0x04)] { State.reset with divAcc := 48 }) := by decide

theorem test_TIM6 :
    (withMem [(0xFF07, 0x05), (0xFF05, 0xFE), (0xFF06, 0xFE)] { State.reset with timaAcc := 8 }).updateTimer 24 =
      (withMem [(0xFF07, 0x05), (0xFF05, 0xFE), (0xFF06, 0xFE), (0xFF0F, 0x04)] { State.reset with timaAcc := 0, divAcc := 24 }) := by decide

theorem test_TIM7 :
    (withMem [(0xFF07, 0x01), (0xFF05, 0x10)] { State.reset with timaAcc := 7 }).updateTimer 400 =
      (withMem [(0xFF07, 0x01), (0xFF05, 0x10), (0xFF04, 0x01)] { State.reset with timaAcc := 7, divAcc := 144 }) := by decide

theorem test_TIM8a :
    (withMem [(0xFF07, 0x04)] State.reset).updateTimer 1024 =
      (withMem [(0xFF07, 0x04), (0xFF05, 0x01), (0xFF04, 0x04)] State.reset) := by decide

theorem test_TIM8b :
    (withMem [(0xFF07, 0x05)] State.reset).updateTimer 1024 =
      (withMem [(0xFF07, 0x05), (0xFF05, 0x40), (0xFF04, 0x04)] State.reset) := by decide +kernel

theorem test_TIM8c :
    (withMem [(0xFF07, 0x06)] State.reset).updateTimer 1024 =
      (withMem [(0xFF07, 0x06), (0xFF05, 0x10), (0xFF04, 0x04)] State.reset) := by decide +kernel

theorem test_TIM8d :
    (withMem [(0xFF07, 0x07)] State.reset).updateTimer 1024 =
      (withMem [(0xFF07, 0x07), (0xFF05, 0x04), (0xFF04, 0x04)] State.reset) := by decide

theorem test_TIM9 :
    (withMem [(0xFF07, 0x05)] { State.reset with timaAcc := 900 }).updateTimer 4 =
      (withMem [(0xFF07, 0x05), (0xFF05, 0x38)] { State.reset with timaAcc := 8, divAcc := 4 }) := by decide +kernel

theorem test_TIM11 :
    (withMem [(0xFF04, 0xFF)] { State.reset with divAcc := 250 }).updateTimer 24 =
      (withMem [(0xFF04, 0xFF), (0xFF04, 0x00)] { State.reset with divAcc := 18 }) := by decide

theorem test_TIM12 :
    (withMem [(0xFF07, 0xFD)] State.reset).updateTimer 16 =
      (withMem [(0xFF07, 0xFD), (0xFF05, 0x01)] { State.reset with divAcc := 16 }) := by decide

theorem test_TIM13 :
    (withMem [(0xFF07, 0xFB)] State.reset).updateTimer 4096 =
      (withMem [(0xFF07, 0xFB), (0xFF04, 0x10)] State.reset) := by decide +kernel

theorem test_TIM14 :
    (withMem [(0xFF07, 0x04)] { State.reset with timaAcc := 1020 }).updateTimer 4 =
      (withMem [(0xFF07, 0x04), (0xFF05, 0x01)] { State.reset with timaAcc := 0, divAcc := 4 }) := by decide

/-- T-TIM16: overflow, request and entry within one step. -/
theorem test_TIM16 :
    nextIs (step (withMem [(0x0100, 0x00), (0xFFFF, 0x04), (0xFF07, 0x05), (0xFF05, 0xFF), (0xFF06, 0x20)]
        { State.reset with ime := true, timaAcc := 12 }))
      (fun t => t.readByte 0xFF05 == 0x20 && t.pc == 0x0050 && t.readByte 0xFF0F == 0x00 && t.timaAcc == 0) = true := by decide

/-! ### The address decoder (V-MEM) -/

/-- M1 and M2: the mirror is one-way. -/
theorem test_M1_M2 :
    ((State.reset.writeByte 0xE005 0x42).readByte 0xC005,
      ((State.reset.writeByte 0xE005 0x42).writeByte 0xC005 0x17).readByte 0xE005) = (0x42, 0x42) := by decide

/-- M3 to M6: the window's edges. -/
theorem test_M3_M6 :
    ((State.reset.writeByte 0xFDFF 0xAA).readByte 0xDDFF, (State.reset.writeByte 0xFE00 0xBB).readByte 0xDE00,
      (State.reset.writeByte 0xE000 0xCC).readByte 0xC000, (State.reset.writeByte 0xDFFF 0xDD).readByte 0xBFFF) =
      (0xAA, 0x00, 0xCC, 0x00) := by decide

/-- M7: the unusable window is 0xFEA0..0xFEFE. -/
theorem test_M7 :
    ((State.reset.writeByte 0xFEA0 0x11).readByte 0xFEA0, (State.reset.writeByte 0xFEFE 0x22).readByte 0xFEFE,
      (State.reset.writeByte 0xFEFF 0x33).readByte 0xFEFF, (State.reset.writeByte 0xFE9F 0x44).readByte 0xFE9F) =
      (0x00, 0x00, 0x33, 0x44) := by decide

/-- M11 and M13: words wrap and are little-endian. -/
theorem test_M11_M13 :
    ((State.reset.writeWord 0xFFFF 0xBEEF).readByte 0xFFFF, (State.reset.writeWord 0xFFFF 0xBEEF).readByte 0x0000,
      (State.reset.writeWord 0xFFFF 0xBEEF).readWord 0xFFFF) = (0xEF, 0xBE, 0xBEEF) := by decide

/-! ### The host's side -/

/-- R358 and R52 at a launch: the image at its offsets, over INIT_MEM, the six registers zero. -/
theorem test_launch :
    ((State.launch [0x11, 0x22] [(0x0001, 0x99), (0xFF07, 0x99), (0xC000, 0x77)]).readByte 0x0001,
      (State.launch [0x11, 0x22] [(0x0001, 0x99), (0xFF07, 0x99), (0xC000, 0x77)]).readByte 0xFF07,
      (State.launch [0x11, 0x22] [(0x0001, 0x99), (0xFF07, 0x99), (0xC000, 0x77)]).readByte 0xC000) =
      (0x22, 0x00, 0x77) := by decide

/-- H1 and H3: the header checksum of all-zero and all-ones headers. -/
theorem test_headerChecksum :
    (headerChecksum (List.replicate 0x150 0x00), headerChecksum (List.replicate 0x150 0xFF)) = (0xE7, 0x00) := by decide

/-- R333: the joypad byte stored by the host is what a load at 0xFF00 returns. -/
theorem test_joypad :
    ((State.reset.hostMove (.joypad 0xEF)).joyp, (State.reset.hostMove (.joypad 0xEF)).readByte 0xFF00) = (0xEF, 0xEF) := by
  decide

/-! ### Other values of the parameters -/

/-- R76: with `ROM_WRITE_PROTECT` true a store below 0x8000 is ignored, and no other. -/
theorem test_romWriteProtect :
    ((State.reset.writeByte 0x7FFF 0x55 { params with romWriteProtect := true }).readByte 0x7FFF,
      (State.reset.writeByte 0x8000 0x55 { params with romWriteProtect := true }).readByte 0x8000) = (0x00, 0x55) := by decide

/-- R302 and D12: with `INT_DISPATCH_MCYCLES` 5, the real part's cost, NOP and the entry after it report 1 + 5. -/
theorem test_intDispatchMCycles :
    nextIs (stepIn { params with intDispatchMCycles := 5 }
        (withMem [(0xFFFF, 0x01), (0xFF0F, 0x01)] { State.reset with ime := true }))
      (fun t => t.pc == 0x0040 && t.elapsed == some 6) = true := by decide

/-! ### The hypotheses of the statements are met

One state for every clause of a hypothesis, at the ends of its range. -/

/-- The state after reset with bytes at 0x0100. -/
def withCode (bytes : List Byte) : State :=
  State.reset.placeAtPc (bytes.getD 0 0) (bytes.getD 1 0) (bytes.getD 2 0)

/-- The state after reset, waiting, with IE and IF as given. -/
def waiting (ie iF : Byte) (ime : Bool) : State :=
  withMem [(0xFFFF, ie), (0xFF0F, iF)] { State.reset with halted := true, ime := ime }

theorem witness_EncodeThenDecode :
    (Instr.setBHl 7).wellFormed = true ∧ (Instr.bitBR 0 .a).wellFormed = true ∧ (Instr.rst 7).wellFormed = true ∧
      (Instr.prefixCb 0xFF).wellFormed = true := by decide

theorem witness_FirstByte_prefix : (0xCB : Byte) = 0xCB ∧ (decodeBytes 0xCB 0xFF 0x00).length = 2 := by decide

theorem witness_StepRunsTheDecodedInstruction :
    (withCode [0x3E, 0x42]).fatal = none ∧ ¬ (withCode [0x3E, 0x42]).Idling ∧
      decode [(withCode [0x3E, 0x42]).readByte (withCode [0x3E, 0x42]).pc,
        (withCode [0x3E, 0x42]).readByte ((withCode [0x3E, 0x42]).pc + 1),
        (withCode [0x3E, 0x42]).readByte ((withCode [0x3E, 0x42]).pc + 2)] = .ok (.ldRN8 .a 0x42, [0x00]) :=
  ⟨rfl, by unfold State.Idling; decide, rfl⟩

/-- A halted machine with IME clear and a request runs too. -/
theorem witness_StepRuns_after_wake : (waiting 0x04 0x04 false).fatal = none ∧ ¬ (waiting 0x04 0x04 false).Idling :=
  ⟨rfl, by unfold State.Idling; decide⟩

/-- Both ways of idling: no enabled request (bits 7 to 5 apart), and IME set with one. -/
theorem witness_HaltedStepIdles :
    ((waiting 0xFF 0xE0 false).fatal = none ∧ (waiting 0xFF 0xE0 false).Idling) ∧
      (waiting 0x10 0x10 true).fatal = none ∧ (waiting 0x10 0x10 true).Idling :=
  ⟨⟨rfl, by unfold State.Idling; decide⟩, rfl, by unfold State.Idling; decide⟩

theorem witness_FatalStateHasNoStep :
    ({ State.reset with fatal := some ⟨.unimplemented, 0x10, 0x0100⟩ } : State).fatal =
      some ⟨.unimplemented, 0x10, 0x0100⟩ := rfl

theorem witness_EveryLiveStateHasAStep : State.reset.Live := rfl

/-- The three clauses: an illegal byte, 0x10, and any other byte. -/
theorem witness_FatalErrorExactly :
    ((withCode [0xFD]).Live ∧ ¬ (withCode [0xFD]).Idling ∧ (withCode [0xFD]).readByte 0x0100 ∈ illegalBytes) ∧
      ((withCode [0x10]).Live ∧ ¬ (withCode [0x10]).Idling ∧ (withCode [0x10]).readByte 0x0100 = 0x10) ∧
      (withCode [0xD4]).Live ∧ ¬ (withCode [0xD4]).Idling ∧ (withCode [0xD4]).readByte 0x0100 ∉ illegalBytes :=
  ⟨⟨rfl, by unfold State.Idling; decide, by decide⟩, ⟨rfl, by unfold State.Idling; decide, by decide⟩, rfl,
    by unfold State.Idling; decide, by decide⟩

/-- A step that stores at an end of the unusable window: LD (HL),A with HL there. -/
theorem witness_UnusableWindow :
    nextIs (step { withCode [0x77] with h := 0xFE, l := 0xA0, a := 0x55 })
        (fun t => t.readByte 0xFEA0 == 0x00) = true ∧
      nextIs (step { withCode [0x77] with h := 0xFE, l := 0xFE, a := 0x55 })
        (fun t => t.readByte 0xFEFE == 0x00) = true ∧
      (0xFEA0 : Word) ≤ 0xFEA0 ∧ (0xFEA0 : Word) < 0xFEFF ∧ (0xFEA0 : Word) ≤ 0xFEFE ∧ (0xFEFE : Word) < 0xFEFF := by decide

/-- A state with the invariant, a full accumulator and a listed cell, whose step answers a next state. -/
theorem witness_EveryStepKeepsTheInvariant :
    ({ withCode [0x3E, 0x42] with divAcc := 255, timaAcc := 1023 } : State).Inv ∧
      nextIs (step { withCode [0x3E, 0x42] with divAcc := 255, timaAcc := 1023 }) (fun t => t.divAcc == 7) = true := by
  refine ⟨⟨?_, rfl, ⟨?_, ?_⟩, ?_, ?_⟩, by decide⟩
  · show Memory.wf [((256 : Nat), (0x3E : Byte)), (257, 0x42)]
    decide
  · show 255 < 256
    decide
  · show 1023 < 1024
    decide
  · intro r h
    cases h
  · intro m h
    cases h

/-- A fatal record the invariant admits. -/
theorem witness_fatal_record_legal :
    FatalRecord.Legal ⟨.illegal, 0xD3, 0x0100⟩ ∧ FatalRecord.Legal ⟨.unimplemented, 0x10, 0x0100⟩ := by
  unfold FatalRecord.Legal
  decide

/-- Stacks on each side of the unusable window whose two bytes are both stored. -/
theorem witness_PushThenPop :
    (¬ ((0xFEA0 : Word) ≤ 0xFEA0 - 1 ∧ (0xFEA0 : Word) - 1 < 0xFEFF) ∧
        ¬ ((0xFEA0 : Word) ≤ 0xFEA0 - 2 ∧ (0xFEA0 : Word) - 2 < 0xFEFF)) ∧
      ¬ ((0xFEA0 : Word) ≤ 0xFF01 - 1 ∧ (0xFF01 : Word) - 1 < 0xFEFF) ∧
      ¬ ((0xFEA0 : Word) ≤ 0xFF01 - 2 ∧ (0xFF01 : Word) - 2 < 0xFEFF) := by decide

/-- The timer off; on with TIMA + k = 0xFF; on with TIMA + k = 0x100. -/
theorem witness_TimerCounts :
    ((withMem [(0xFF07, 0xFB)] State.reset).readByte 0xFF07).getLsbD 2 = false ∧
      (((withMem [(0xFF07, 0x05), (0xFF05, 0xFE)] State.reset).readByte 0xFF07).getLsbD 2 = true ∧
        16 = [1024, 16, 64, 256].getD
          (((withMem [(0xFF07, 0x05), (0xFF05, 0xFE)] State.reset).readByte 0xFF07).toNat % 4) 0 ∧
        ((withMem [(0xFF07, 0x05), (0xFF05, 0xFE)] State.reset).readByte 0xFF05).toNat + (0 + 16) / 16 = 255) ∧
      ((withMem [(0xFF07, 0x05), (0xFF05, 0xFE)] State.reset).readByte 0xFF05).toNat + (0 + 32) / 16 = 256 := by decide

/-- The highest source alone, and the lowest with every other requested. -/
theorem witness_InterruptEntry :
    (({ waiting 0x1F 0x10 true with halted := false } : State).ime = true ∧
        ((waiting 0x1F 0x10 true).readByte 0xFFFF).getLsbD 4 = true ∧
        ((waiting 0x1F 0x10 true).readByte 0xFF0F).getLsbD 4 = true ∧
        ∀ i, i < 4 → ¬ (((waiting 0x1F 0x10 true).readByte 0xFFFF).getLsbD i = true ∧
          ((waiting 0x1F 0x10 true).readByte 0xFF0F).getLsbD i = true)) ∧
      (waiting 0x1F 0x1F true).ime = true ∧ ((waiting 0x1F 0x1F true).readByte 0xFFFF).getLsbD 0 = true ∧
      ((waiting 0x1F 0x1F true).readByte 0xFF0F).getLsbD 0 = true := by decide

/-- The gate closed by IME, and by IE and IF with only bits 7 to 5 in common. -/
theorem witness_ClosedGates :
    (waiting 0x1F 0x1F false).ime = false ∧
      (waiting 0xFF 0xE0 true).readByte 0xFFFF &&& (waiting 0xFF 0xE0 true).readByte 0xFF0F &&& 0x1F = 0 := by decide

/-- IME rises by EI, falls by DI, and falls by an entry, with PC pushed and the request bit cleared. -/
theorem witness_ImeChanges :
    nextIs (step (withCode [0xFB])) (fun t => t.ime) = true ∧
      nextIs (step { withCode [0xF3] with ime := true }) (fun t => !t.ime) = true ∧
      nextIs (step (withMem [(0xFFFF, 0x10), (0xFF0F, 0x10)] { State.reset with ime := true }))
        (fun t => !t.ime && t.pc == 0x0060 && t.sp == 0xFFFC && t.readByte 0xFFFD == 0x01 && t.readByte 0xFFFC == 0x01 &&
          t.readByte 0xFF0F == 0x00) = true := by decide

/-- The launch statement's cells: the last byte of an image, the first beyond it, a zeroed register. -/
theorem witness_Launch :
    ((State.launch [0x11, 0x22] [(0x0002, 0x99)]).readByte 0x0001, (State.launch [0x11, 0x22] [(0x0002, 0x99)]).readByte 0x0002,
      (State.launch [0x11, 0x22] [(0xFFFF, 0x99)]).readByte 0xFFFF) = (0x22, 0x99, 0x00) := by decide

/-- Both branches of a conditional: the Z flag set at reset, NZ not. -/
theorem witness_conditions : State.reset.cond .z = true ∧ State.reset.cond .nz = false := by decide

/-- A table CY count exists for an untaken and a taken form. -/
theorem witness_CycleCounts :
    mcycles (.retCc .z) false = some 2 ∧ mcycles (.callCcA16 .z 0) true = some 6 ∧ mcycles .nop false = some 1 := by decide

/-- Both directions of DAA: N clear at reset, N set. -/
theorem witness_flagN : State.reset.flagN = false ∧ (State.reset.writeFlags ⟨false, true, false, false⟩).flagN = true := by
  decide

end Sys2Proof.Tests
end

section
/-! SUPPORT. What the host does between steps keeps the invariant (00_scope.md R11): every operation that fills the memory of a
launch keeps its canonical form, and a store or a request changes memory only. -/

namespace Sys2Proof.Machine

/-! ### The memory of a launch -/

/-- A byte image laid out inside the 64 KiB keeps the canonical form (R358). -/
theorem Memory.wf_fill (image : List Byte) (m : Memory) (a : Nat) (hm : m.wf) (hfit : a + image.length ≤ 65536) :
    (m.fill a image).wf := by
  induction image generalizing m a with
  | nil => exact hm
  | cons v rest ih =>
    rw [List.length_cons] at hfit
    exact ih _ _ (Memory.wf_write m a v hm (by omega)) (by omega)

/-- Cells placed one by one keep the canonical form, whatever their keys: one outside the 64 KiB is ignored (log 14). -/
theorem Memory.wf_place (cells : List Host.Cell) (m : Memory) (hm : m.wf) : (m.place cells).wf := by
  induction cells generalizing m with
  | nil => exact hm
  | cons p rest ih =>
    obtain ⟨k, v⟩ := p
    apply ih
    split
    · next hk => exact Memory.wf_write m k v hm hk
    · exact hm

/-- The memory of every launch is in canonical form: what the image adds is cut to `romHi` bytes, which fit (R350). -/
theorem wf_launchMemory (image : List Byte) (initMem : List Host.Cell) (cfg : Config) :
    (launchMemory image initMem cfg).wf := by
  have hlen : (image.take cfg.romHi.toNat).length ≤ cfg.romHi.toNat := List.length_take_le _ _
  have hrom : cfg.romHi.toNat < 65536 := cfg.romHi.isLt
  exact Memory.wf_fill _ _ 0 (Memory.wf_place _ _ (Memory.wf_place _ _ Memory.wf_nil)) (by omega)

/-! ### The invariant -/

namespace State

/-- Of the memory the invariant asks the canonical form only. -/
theorem Inv.withMem {s : State} (h : s.Inv) {m : Memory} (hm : m.wf) : ({ s with mem := m } : State).Inv where
  mem_wf := hm
  low_nibble := h.low_nibble
  acc := h.acc
  fatal_legal := h.fatal_legal
  elapsed := h.elapsed

/-- The state after reset has the invariant (table RV, R52). -/
theorem inv_reset : State.reset.Inv where
  mem_wf := wf_reset
  low_nibble := by unfold LowNibbleZero; decide
  acc := by unfold AccBounded; decide
  fatal_legal := fun _ h => nomatch h
  elapsed := fun _ h => nomatch h

/-- So has the state of every launch, which is the reset state with another memory (R350). -/
theorem inv_launch (image : List Byte) (initMem : List Host.Cell) : (State.launch image initMem).Inv :=
  inv_reset.withMem (wf_launchMemory image initMem params)

theorem inv_writeByte (s : State) (a : Word) (v : Byte) (h : s.Inv) : (s.writeByte a v).Inv := by
  rw [writeByte_only_mem]
  exact h.withMem (wf_writeByte s a v h.mem_wf)

theorem inv_requestInterrupt (s : State) (n : Nat) (h : s.Inv) : (s.requestInterrupt n).Inv :=
  h.withMem (wf_requestInterrupt s n h.mem_wf)

end State

/-! ### The statement -/

/-- Settles O13, move by move: a store and a request change memory only and keep its canonical form, a reset is a launch. -/
theorem everyHostMoveKeepsTheInvariant : Obligations.EveryHostMoveKeepsTheInvariant := by
  unfold Obligations.EveryHostMoveKeepsTheInvariant
  intro s m h
  cases m with
  | write a v => exact State.inv_writeByte s a v h
  | request n => exact State.inv_requestInterrupt s n.val h
  | reset image initMem => exact State.inv_launch image initMem

end Sys2Proof.Machine
end

section
/-! SUPPORT. What every meaning can answer, said once for all 117 rows: it completes with a count of table CY, keeping what
the invariant speaks of, or it raises the fatal error; and what it makes of IME (10_state.md R36, R47; 60_exceptions.md R304). -/

namespace Sys2Proof.Machine

/-- IME after the instruction: DI clears it, EI and RETI set it, no other instruction writes it (R36, R226, R241, R242). -/
def imeAfter (i : Instr) (ime : Bool) : Bool :=
  match i with
  | .di => false
  | .ei | .reti => true
  | _ => ime

/-- Only DI closes the gate. -/
theorem eq_di_of_imeAfter_eq_false {i : Instr} (h : imeAfter i true = false) : i = .di := by
  unfold imeAfter at h
  split at h <;> simp_all

/-- Only EI and RETI open the gate (R311). -/
theorem eq_ei_or_reti_of_imeAfter_eq_true {i : Instr} (h : imeAfter i false = true) : i = .ei ∨ i = .reti := by
  unfold imeAfter at h
  split at h <;> simp_all

/-- Every count of table CY lies between 1 and 6 (R369). -/
theorem tableCY_bounds {i : Instr} {taken : Bool} {m : Nat} (h : tableCY i taken = some m) : 1 ≤ m ∧ m ≤ 6 := by
  cases i <;> cases taken <;> cases h <;> decide

/-- The mask of POP AF clears the low nibble of F (R231). -/
theorem loByte_and_mask_low (w : Word) : loByte (w &&& 0xFFF0) &&& 0x0F = 0 := by
  apply BitVec.eq_of_getLsbD_eq
  intro i hi
  have : i = 0 ∨ i = 1 ∨ i = 2 ∨ i = 3 ∨ i = 4 ∨ i = 5 ∨ i = 6 ∨ i = 7 := by omega
  rcases this with rfl | rfl | rfl | rfl | rfl | rfl | rfl | rfl <;> simp [loByte]

/-- What an instruction that completes keeps on the way from `s` to `t`, with IME at `ime` in the end: the canonical form of
memory, the zero low nibble of F, the accumulators and the fatal record. -/
structure Kept (ime : Bool) (s t : State) : Prop where
  ime_eq : t.ime = ime
  mem_wf : s.mem.wf → t.mem.wf
  low_nibble : s.LowNibbleZero → t.LowNibbleZero
  divAcc_eq : t.divAcc = s.divAcc
  timaAcc_eq : t.timaAcc = s.timaAcc
  fatal_eq : t.fatal = s.fatal

namespace Kept

variable {ime : Bool} {s t : State}

theorem refl (s : State) : Kept s.ime s s := ⟨rfl, id, id, rfl, rfl, rfl⟩

/-! ### Updates of what the invariant does not speak of -/

theorem setPc (h : Kept ime s t) {w : Word} : Kept ime s (t.setPc w) := { h with }

theorem setSp (h : Kept ime s t) {w : Word} : Kept ime s (t.setSp w) := { h with }

theorem setHalted (h : Kept ime s t) {v : Bool} : Kept ime s (t.setHalted v) := { h with }

theorem setIme (h : Kept ime s t) {v : Bool} : Kept v s (t.setIme v) := { h with ime_eq := rfl }

theorem setA (h : Kept ime s t) {v : Byte} : Kept ime s (t.setA v) := { h with }

theorem setHl (h : Kept ime s t) {w : Word} : Kept ime s (t.setHl w) := { h with }

theorem writeR8 (h : Kept ime s t) {r : Reg8} {v : Byte} : Kept ime s (t.writeR8 r v) := by
  cases r <;> exact { h with }

theorem writeR16 (h : Kept ime s t) {p : Reg16} {w : Word} : Kept ime s (t.writeR16 p w) := by
  cases p <;> exact { h with }

theorem writeStackPair (h : Kept ime s t) {p : StackPair} {w : Word} : Kept ime s (t.writeStackPair p w) := by
  cases p <;> exact { h with }

/-! ### Updates of F -/

theorem writeFlags (h : Kept ime s t) {fl : Flags} : Kept ime s (t.writeFlags fl) :=
  { h with low_nibble := fun hs => State.lowNibbleZero_writeFlags t fl (h.low_nibble hs) }

theorem assignF (h : Kept ime s t) {fl : Flags} : Kept ime s (t.assignF fl) :=
  { h with low_nibble := fun _ => State.lowNibbleZero_assignF t fl }

/-- AF popped: the mask of R231 clears the low nibble. -/
theorem setAf (h : Kept ime s t) {w : Word} : Kept ime s (t.setWord .af (w &&& 0xFFF0)) :=
  { h with low_nibble := fun _ => loByte_and_mask_low w }

/-! ### Updates of memory -/

theorem writeByte (h : Kept ime s t) {a : Word} {v : Byte} : Kept ime s (t.writeByte a v) := by
  rw [State.writeByte_only_mem]
  exact { h with mem_wf := fun hs => State.wf_writeByte t a v (h.mem_wf hs) }

theorem push16 (h : Kept ime s t) {v : Word} : Kept ime s (t.push16 v) := h.writeByte.writeByte.setSp

end Kept

theorem legal_of_mem_illegalBytes {op : Byte} {addr : Word} (h : op ∈ illegalBytes) :
    FatalRecord.Legal ⟨.illegal, op, addr⟩ := .inl ⟨rfl, h⟩

/-- What a meaning can answer from `s`, with IME at `ime` in the end: the completion with a count of table CY, or the fatal
error of a byte that raises one (R304, R369). -/
inductive MeaningAnswers (ime : Bool) (s : State) : Host.Outcome State Fault Refusal → Prop
  | completes {i : Instr} {taken : Bool} {t : State} (h : Kept ime s t) :
      MeaningAnswers ime s (complete (params.mcycles i taken) t)
  | raises {k : FatalKind} {op : Byte} (hime : s.ime = ime) (h : FatalRecord.Legal ⟨k, op, s.pc - 1⟩) :
      MeaningAnswers ime s (.next (s.raiseFatal k op))


namespace MeaningAnswers

variable {ime : Bool} {s : State}

/-- A conditional instruction answers in its two branches. -/
theorem ite {c : Prop} [Decidable c] {o o' : Host.Outcome State Fault Refusal} (h : MeaningAnswers ime s o)
    (h' : MeaningAnswers ime s o') : MeaningAnswers ime s (if c then o else o') := by
  split <;> assumption

/-- The second page: each of its meanings writes a register or the byte at HL, and flags (R245). -/
theorem prefixCb (op2 : Byte) : MeaningAnswers s.ime s (execPrefixCb op2 s) := by
  have hs := Kept.refl s
  unfold execPrefixCb
  split
  · unfold execRotateR
    split <;> exact .completes hs.writeR8.assignF
  · unfold execRotateHl
    split <;> exact .completes hs.writeByte.assignF
  · exact .completes hs.writeFlags
  · exact .completes hs.writeFlags
  · exact .completes hs.writeR8
  · exact .completes hs.writeByte
  · exact .completes hs.writeR8
  · exact .completes hs.writeByte

end MeaningAnswers

/-- The answer of every meaning, by what the instruction updates. -/
theorem exec_answers (i : Instr) (s : State) : MeaningAnswers (imeAfter i s.ime) s (exec i s) := by
  have hs := Kept.refl s
  cases i with
  | ldRR | ldRN8 | ldRHl | resBR | setBR => exact .completes hs.writeR8
  | ldABc | ldADe | ldAA16 | ldhAA8 | ldAC => exact .completes hs.setA
  | ldHlR | ldHlN8 | ldBcA | ldDeA | ldA16A | ldhA8A | ldCA | resBHl | setBHl => exact .completes hs.writeByte
  | ldHliA | ldHldA => exact .completes hs.writeByte.setHl
  | ldAHli | ldAHld => exact .completes hs.setA.setHl
  | ldRrN16 | incRr | decRr => exact .completes hs.writeR16
  | ldSpHl => exact .completes hs.setSp
  | ldHlSpE8 | addHlRr => exact .completes hs.setHl.writeFlags
  | addSpE8 => exact .completes hs.setSp.writeFlags
  | ldA16Sp => exact .completes hs.writeByte.writeByte
  | incR | decR => exact .completes hs.writeR8.writeFlags
  | incHl | decHl => exact .completes hs.writeByte.writeFlags
  | addAR | addAHl | addAN8 | adcAR | adcAHl | adcAN8 | subR | subHl | subN8 | sbcAR | sbcAHl | sbcAN8 | daa | cpl =>
    exact .completes hs.setA.writeFlags
  | cpR | cpHl | cpN8 | scf | ccf | bitBR | bitBHl => exact .completes hs.writeFlags
  | andR | andHl | andN8 | xorR | xorHl | xorN8 | orR | orHl | orN8 | rlca | rrca | rla | rra =>
    exact .completes hs.setA.assignF
  | rlcR | rrcR | rlR | rrR | slaR | sraR | swapR | srlR => exact .completes hs.writeR8.assignF
  | rlcHl | rrcHl | rlHl | rrHl | slaHl | sraHl | swapHl | srlHl => exact .completes hs.writeByte.assignF
  | jrE8 | jpA16 | jpHl => exact .completes hs.setPc
  | jrCcE8 | jpCcA16 => exact .ite (.completes hs.setPc) (.completes hs)
  | callA16 | rst => exact .completes hs.push16.setPc
  | callCcA16 => exact .ite (.completes hs.push16.setPc) (.completes hs)
  | ret => exact .completes hs.setSp.setPc
  | retCc => exact .ite (.completes hs.setSp.setPc) (.completes hs)
  | reti => exact .completes hs.setSp.setPc.setIme
  | pushRr | pushAf => exact .completes hs.push16
  | popRr => exact .completes hs.setSp.writeStackPair
  | popAf => exact .completes hs.setSp.setAf
  | nop => exact .completes hs
  | di | ei => exact .completes hs.setIme
  | halt => exact .completes hs.setHalted
  | prefixCb op2 => exact .prefixCb op2
  | stop => exact .raises rfl (.inr ⟨rfl, rfl⟩)
  | illegalD3 | illegalDB | illegalDD | illegalE3 | illegalE4 | illegalEB | illegalEC | illegalED | illegalF4 | illegalFC
  | illegalFD => exact .raises rfl (legal_of_mem_illegalBytes (by decide))

/-- A next state of a meaning comes from a completion or from the fatal error. -/
theorem exec_next_cases {i : Instr} {s t : State} (h : exec i s = .next t) :
    (∃ (j : Instr) (taken : Bool) (u : State), Kept (imeAfter i s.ime) s u ∧ t = u.report (tableCY j taken)) ∨
      ∃ (k : FatalKind) (op : Byte),
        s.ime = imeAfter i s.ime ∧ FatalRecord.Legal ⟨k, op, s.pc - 1⟩ ∧ t = s.raiseFatal k op := by
  have ha := exec_answers i s
  rw [h] at ha
  cases ha with
  | completes hk => exact .inl ⟨_, _, _, hk, rfl⟩
  | raises hime hl => exact .inr ⟨_, _, hime, hl, rfl⟩

/-- IME where an instruction answers a next state (R36, R311). -/
theorem ime_of_exec {i : Instr} {s t : State} (h : exec i s = .next t) : t.ime = imeAfter i s.ime := by
  obtain ⟨j, taken, u, hk, rfl⟩ | ⟨k, op, hime, -, rfl⟩ := exec_next_cases h
  · exact hk.ime_eq
  · exact hime

end Sys2Proof.Machine
end

section
/-! SUPPORT. Every step keeps the invariant: the instruction, the timer update and the interrupt check each do. -/

namespace Sys2Proof.Machine.State

/-- The invariant through what an instruction keeps, whatever count of table CY it reports (R369). -/
theorem inv_report_tableCY {ime taken : Bool} {i : Instr} {s t : State} (hk : Kept ime s t) (h : s.Inv) :
    (t.report (tableCY i taken)).Inv where
  mem_wf := hk.mem_wf h.mem_wf
  low_nibble := hk.low_nibble h.low_nibble
  acc := by
    obtain ⟨hdiv, htima⟩ := h.acc
    exact ⟨hk.divAcc_eq ▸ hdiv, hk.timaAcc_eq ▸ htima⟩
  fatal_legal := fun r hr => h.fatal_legal r (hk.fatal_eq ▸ hr)
  elapsed := fun _ hm => tableCY_bounds hm

theorem inv_raiseFatal {s : State} {k : FatalKind} {op : Byte} (hl : FatalRecord.Legal ⟨k, op, s.pc - 1⟩) (h : s.Inv) :
    (s.raiseFatal k op).Inv :=
  { h with
    fatal_legal := by
      rintro r ⟨⟩
      exact hl
    elapsed := fun _ hm => nomatch hm }

/-- The state an instruction runs in, halted cleared and PC moved, has the invariant. -/
theorem inv_ready {s : State} (i : Instr) (h : s.Inv) : (s.ready i).Inv := { h with }

theorem inv_exec {i : Instr} {s t : State} (h : s.Inv) (he : exec i s = .next t) : t.Inv := by
  obtain ⟨j, taken, u, hk, rfl⟩ | ⟨k, op, -, hl, rfl⟩ := exec_next_cases he
  · exact inv_report_tableCY hk h
  · exact inv_raiseFatal hl h

theorem inv_updateTimer {s : State} (n : Nat) (h : s.Inv) : (s.updateTimer n).Inv where
  mem_wf := wf_updateTimer s n h.mem_wf
  low_nibble := by rw [LowNibbleZero, updateTimer_f]; exact h.low_nibble
  acc := accBounded_updateTimer s n h.acc
  fatal_legal := by rw [updateTimer_fatal]; exact h.fatal_legal
  elapsed := by rw [ElapsedBounded, updateTimer_elapsed]; exact h.elapsed

theorem inv_handleInterrupts {s : State} (h : s.Inv) : s.handleInterrupts.Inv := by
  have hm := wf_handleInterrupts s h.mem_wf
  rw [handleInterrupts_only]
  exact { h.withMem hm with }

theorem inv_finishStep {s : State} (h : s.Inv) : s.finishStep.Inv := by
  cases hf : s.fatal with
  | some r => rwa [finishStep_fatal s hf]
  | none =>
    rw [finishStep_live s hf]
    exact inv_handleInterrupts (inv_updateTimer _ h)

/-- An idle step reports one M-cycle (R335). -/
theorem inv_idleStep {s : State} (h : s.Inv) : s.idleStep.Inv :=
  inv_finishStep { h with elapsed := by rintro m ⟨⟩; decide }

end Sys2Proof.Machine.State

namespace Sys2Proof.Machine

/-- Settles O12: a step is idle or runs a meaning, and either keeps the invariant. -/
theorem everyStepKeepsTheInvariant : Obligations.EveryStepKeepsTheInvariant := by
  unfold Obligations.EveryStepKeepsTheInvariant
  intro s t h hstep
  obtain ⟨-, ⟨-, rfl⟩ | ⟨-, u, hu, rfl⟩⟩ := step_next_cases hstep
  · exact State.inv_idleStep h
  · exact State.inv_finishStep (State.inv_exec (State.inv_ready _ h) hu)

end Sys2Proof.Machine
end

section
/-! SUPPORT. The drain loop of TIMA in closed form (60_exceptions.md R325, R327): what the count and IF hold after any number of
increments. -/

namespace Sys2Proof.Machine

/-- TIMA after `n` increments from `c` with reload value `m`: past 0xFF it runs through `m..0xFF` (R325). -/
def timaAfter (c m n : Nat) : Nat := if c + n ≤ 255 then c + n else m + (c + n - 256) % (256 - m)

/-- An increment below 0xFF. -/
theorem timaAfter_succ (c m n : Nat) : timaAfter c m (n + 1) = timaAfter (c + 1) m n := by
  unfold timaAfter
  rw [show c + (n + 1) = c + 1 + n by omega]

/-- The increment that reloads: the count goes on from `m`, and one lap later the remainder is the same. -/
theorem timaAfter_reload {m : Nat} (n : Nat) (hm : m < 256) : timaAfter 255 m (n + 1) = timaAfter m m n := by
  unfold timaAfter
  rw [if_neg (by omega), show 255 + (n + 1) - 256 = n by omega]
  by_cases h : m + n ≤ 255
  · rw [if_pos h, Nat.mod_eq_of_lt (by omega)]
  · rw [if_neg h, Nat.mod_eq_sub_mod (by omega), show n - (256 - m) = m + n - 256 by omega]

theorem setBit_setBit (v : Byte) (i : Nat) : setBit (setBit v i) i = setBit v i := by
  simp [setBit, BitVec.or_assoc]

namespace State

/-- The increment at 0xFF reloads and requests (R325). -/
theorem timaTick_full (s : State) (h : s.readByte 0xFF05 = 0xFF) :
    s.timaTick.readByte 0xFF05 = s.readByte 0xFF06 ∧ s.timaTick.readByte 0xFF0F = setBit (s.readByte 0xFF0F) 2 := by
  rw [readByte_timaTick, readByte_timaTick, if_pos h, if_pos h]
  exact ⟨rfl, rfl⟩

/-- The increment below 0xFF adds one and leaves IF. -/
theorem timaTick_below (s : State) (h : s.readByte 0xFF05 ≠ 0xFF) :
    (s.timaTick.readByte 0xFF05).toNat = (s.readByte 0xFF05).toNat + 1 ∧
      s.timaTick.readByte 0xFF0F = s.readByte 0xFF0F := by
  rw [readByte_timaTick, readByte_timaTick, if_neg h, if_neg h]
  refine ⟨?_, rfl⟩
  rw [if_pos rfl]
  bv_omega

/-- `n` increments: TIMA as `timaAfter` counts, and a request of source 2 if the count passed 0xFF (R325, R327). -/
theorem timaTicks_tima_if (n : Nat) : ∀ s : State,
    ((s.timaTicks n).readByte 0xFF05).toNat = timaAfter (s.readByte 0xFF05).toNat (s.readByte 0xFF06).toNat n ∧
      (s.timaTicks n).readByte 0xFF0F =
        if (s.readByte 0xFF05).toNat + n ≤ 255 then s.readByte 0xFF0F else setBit (s.readByte 0xFF0F) 2 := by
  induction n with
  | zero =>
    intro s
    have hc : (s.readByte 0xFF05).toNat + 0 ≤ 255 := Nat.le_of_lt_succ (s.readByte 0xFF05).isLt
    exact ⟨(if_pos hc).symm, (if_pos hc).symm⟩
  | succ k ih =>
    intro s
    obtain ⟨htima, hif⟩ := ih s.timaTick
    have htma : s.timaTick.readByte 0xFF06 = s.readByte 0xFF06 := readByte_timaTicks_other 1 s (by decide) (by decide)
    rw [timaTicks_succ, htima, hif, htma]
    by_cases h : s.readByte 0xFF05 = 0xFF
    · obtain ⟨hc, hi⟩ := timaTick_full s h
      have hpast : ¬ (0xFF : Byte).toNat + (k + 1) ≤ 255 := by simp
      rw [hc, hi, setBit_setBit, ite_self, h, if_neg hpast]
      exact ⟨(timaAfter_reload k (s.readByte 0xFF06).isLt).symm, rfl⟩
    · obtain ⟨hc, hi⟩ := timaTick_below s h
      rw [hc, hi, timaAfter_succ, Nat.add_right_comm, Nat.add_assoc]
      exact ⟨rfl, rfl⟩

/-- The period of the running timer, by the table of R43. -/
theorem timerPeriod_eq_getD (s : State) : s.timerPeriod = [1024, 16, 64, 256].getD ((s.readByte 0xFF07).toNat % 4) 0 := by
  rw [timerPeriod_eq]
  have h := Nat.mod_lt (s.readByte 0xFF07).toNat (show 4 > 0 by decide)
  generalize (s.readByte 0xFF07).toNat % 4 = sel at h
  interval_cases sel <;> rfl

/-- The bytes the running timer leaves are those its increments leave. -/
theorem readByte_updateTima_on (s : State) (t : Nat) (h : s.timerOn = true) (x : Word) :
    (s.updateTima t).readByte x = (s.timaTicks ((s.timaAcc + t) / s.timerPeriod)).readByte x := by
  rw [updateTima_on s t h]
  rfl

end State

/-- Settles O20: off, nothing; on, the closed form of the drain loop, and its frame. -/
theorem timerCountsReloadsAndRequests : Obligations.TimerCountsReloadsAndRequests := by
  unfold Obligations.TimerCountsReloadsAndRequests
  refine ⟨fun s t hoff => State.updateTima_off s t hoff, ?_⟩
  rintro s t P k hon rfl rfl
  rw [← State.timerPeriod_eq_getD]
  refine ⟨?_, ?_, fun x h1 h2 => State.readByte_updateTima_other s t h1 h2, State.updateTima_only s t⟩
  · obtain ⟨htima, hif⟩ := State.timaTicks_tima_if ((s.timaAcc + t) / s.timerPeriod) s
    rw [State.readByte_updateTima_on s t hon, State.readByte_updateTima_on s t hon, htima, hif, timaAfter]
    split <;> exact ⟨rfl, rfl⟩
  · rw [State.updateTima_on s t hon]

end Sys2Proof.Machine
end

section
/-! SUPPORT. What a step does to IME besides its instruction: the timer update leaves it, the interrupt check can only close it,
by an entry (60_exceptions.md R315). -/

namespace Sys2Proof.Machine

/-- The end of the step from `v` was an interrupt entry into `t`: the clause of R315, from the state that UpdateTimer made. -/
def EndsInEntry (v t : State) : Prop :=
  ∃ (u : State) (n : Nat), u = v.updateTimer (4 * v.elapsed.getD 0) ∧ n < 5 ∧
    (u.readByte 0xFFFF).getLsbD n = true ∧ (u.readByte 0xFF0F).getLsbD n = true ∧
    t = u.enterInterrupt n ∧ t.sp = u.sp - 2 ∧ t.pc = BitVec.ofNat 16 (0x40 + 8 * n) ∧
    ∀ x, t.readByte x = if x = 0xFF0F then u.cellAfterPush u.pc x &&& ~~~(1#8 <<< n) else u.cellAfterPush u.pc x

namespace State

theorem enterInterrupt_sp (s : State) (n : Nat) : (s.enterInterrupt n).sp = s.sp - 2 := by rw [enterInterrupt_only]

theorem enterInterrupt_pc (s : State) (n : Nat) : (s.enterInterrupt n).pc = vectors n := by rw [enterInterrupt_only]

theorem enterInterrupt_ime (s : State) (n : Nat) : (s.enterInterrupt n).ime = false := by rw [enterInterrupt_only]

/-- The end of a step keeps IME, or closes the open gate by an entry (R315). -/
theorem finishStep_ime (v : State) :
    v.finishStep.ime = v.ime ∨ v.finishStep.ime = false ∧ EndsInEntry v v.finishStep := by
  cases hf : v.fatal with
  | some r => exact .inl (by rw [finishStep_fatal v hf])
  | none =>
    rw [finishStep_live v hf]
    obtain hsame | ⟨-, n, hn, hie, hif, -, hentry⟩ := handleInterrupts_cases (v.updateTimer (4 * v.elapsed.getD 0))
    · exact .inl (by rw [hsame, updateTimer_ime])
    · rw [hentry]
      exact .inr ⟨enterInterrupt_ime _ n, _, n, rfl, hn, hie, hif, rfl, enterInterrupt_sp _ n, enterInterrupt_pc _ n,
        readByte_enterInterrupt _ n⟩

end State

/-- Settles O25: the instruction writes IME as `imeAfter` says, the idle cycle keeps it, and the end of the step closes it only
by an entry. -/
theorem imeOpensByEiAndRetiAndClosesByDiAndEntry : Obligations.ImeOpensByEiAndRetiAndClosesByDiAndEntry := by
  unfold Obligations.ImeOpensByEiAndRetiAndClosesByDiAndEntry
  intro s t hstep
  obtain ⟨-, ⟨hidle, rfl⟩ | ⟨hrun, v, hv, rfl⟩⟩ := step_next_cases hstep
  · have hI := s.idles_iff.mp hidle
    unfold State.idleStep
    obtain hsame | ⟨hfalse, u, n, hentry⟩ := State.finishStep_ime (s.report (some 1))
    · rw [params_haltIdleMCycles, hsame, State.report_ime]
      exact ⟨fun h0 h1 => absurd (h0.symm.trans h1) Bool.false_ne_true,
        fun h1 h0 => absurd (h0.symm.trans h1) Bool.false_ne_true⟩
    · exact ⟨fun _ h1 => absurd (hfalse.symm.trans h1) Bool.false_ne_true,
        fun _ _ => .inr ⟨s.report (some 1), u, n, .inl ⟨hI, rfl⟩, hentry⟩⟩
  · have hI : ¬ s.Idling := fun h => by simp [s.idles_iff.mpr h] at hrun
    have hime : v.ime = imeAfter s.fetched s.ime := ime_of_exec (s := s.ready s.fetched) hv
    obtain hsame | ⟨hfalse, u, n, hentry⟩ := State.finishStep_ime v
    · rw [hsame, hime]
      constructor
      · intro h0 h1
        rw [h0] at h1
        exact ⟨hI, eq_ei_or_reti_of_imeAfter_eq_true h1⟩
      · intro h1 h0
        rw [h1] at h0
        exact .inl ⟨hI, eq_di_of_imeAfter_eq_false h0⟩
    · exact ⟨fun _ h1 => absurd (hfalse.symm.trans h1) Bool.false_ne_true,
        fun _ _ => .inr ⟨v, u, n, .inr ⟨hI, hv⟩, hentry⟩⟩

end Sys2Proof.Machine
end

section
/-! SUPPORT. The step's frame, its equation, the state after reset and the register pairs: statements the model's laws give. -/

namespace Sys2Proof.Machine

/-- Settles O26: neither update writes a register, F, the fatal record or the output. -/
theorem timerAndInterruptCheckKeepRegistersAndFlags : Obligations.TimerAndInterruptCheckKeepRegistersAndFlags := by
  unfold Obligations.TimerAndInterruptCheckKeepRegistersAndFlags
  rintro s t u rfl
  refine ⟨fun r _ => ?_, by simp, by simp, by simp⟩
  apply State.readR8_congr <;> simp

/-- Settles O5: the list decoder answers what the step fetches. -/
theorem stepRunsTheDecodedInstruction : Obligations.StepRunsTheDecodedInstruction := by
  unfold Obligations.StepRunsTheDecodedInstruction
  intro s i rest hlive hrun hdec
  have hi : s.fetched = i := decode_three hdec
  rw [step_live s hlive, if_neg (fun h => hrun (s.idles_iff.mp h)), hi]
  show closeStep (exec i (s.ready i)) = _
  unfold closeStep State.finishStep
  rfl

/-- Settles O11: the reset state has the invariant, and zeroing the six registers of an empty memory leaves it empty. -/
theorem resetStateHasTheInvariant : Obligations.ResetStateHasTheInvariant := by
  unfold Obligations.ResetStateHasTheInvariant
  exact ⟨State.inv_reset, rfl, fun _ => rfl⟩

/-- Settles O14: both moves are stores. -/
theorem hostTouchesMemoryOnly : Obligations.HostTouchesMemoryOnly := by
  unfold Obligations.HostTouchesMemoryOnly
  exact fun s a v n => ⟨State.writeByte_only_mem s a v, rfl⟩

/-- Settles O17: a pair holds its high byte 256 times and its low byte once. -/
theorem registerPairsRoundTrip : Obligations.RegisterPairsRoundTrip := by
  unfold Obligations.RegisterPairsRoundTrip
  exact ⟨State.getWord_setWord_same, fun _ => ⟨mkWord_toNat _ _, mkWord_toNat _ _, mkWord_toNat _ _, mkWord_toNat _ _⟩⟩

end Sys2Proof.Machine
end

section
/-! SUPPORT. The address decoder: every store of an instruction goes through it, so no step, store or request changes the
unusable window (20_memory.md R61 to R65). -/

namespace Sys2Proof.Machine

/-! ### A cell no store reaches -/

namespace State

/-- A pair write leaves memory (10_state.md R24). -/
@[simp] theorem readByte_setWord (s : State) (p : RegPair) (w x : Word) : (s.setWord p w).readByte x = s.readByte x := by
  cases p <;> rfl

@[simp] theorem readByte_writeR16 (s : State) (p : Reg16) (w x : Word) : (s.writeR16 p w).readByte x = s.readByte x :=
  readByte_setWord s _ w x

@[simp] theorem readByte_writeStackPair (s : State) (p : StackPair) (w x : Word) :
    (s.writeStackPair p w).readByte x = s.readByte x := readByte_setWord s _ w x

@[simp] theorem readByte_accumulate (s : State) (r : Alu) (x : Word) : (s.accumulate r).readByte x = s.readByte x := rfl

@[simp] theorem readByte_accumulateLogic (s : State) (r : Alu) (x : Word) :
    (s.accumulateLogic r).readByte x = s.readByte x := rfl

@[simp] theorem readByte_rotateA (s : State) (o : Rotate) (x : Word) : (s.rotateA o).readByte x = s.readByte x := rfl

@[simp] theorem readByte_rotateR8 (s : State) (o : Rotate) (r : Reg8) (x : Word) :
    (s.rotateR8 o r).readByte x = s.readByte x := readByte_writeR8 s r _ x

/-- The byte at every address after a store at HL (40_loads.md R120). -/
theorem readByte_storeAtHl (s : State) (v : Byte) (x : Word) :
    (s.storeAtHl v).readByte x = if storeHits s.hl x then v else s.readByte x := readByte_writeByte s s.hl v x

/-- The byte at every address after a rotate or shift of the byte at HL (47_rotate_cb.md R254). -/
theorem readByte_rotateAtHl (s : State) (o : Rotate) (x : Word) :
    (s.rotateAtHl o).readByte x = if storeHits s.hl x then o.result s.atHl s.flagC else s.readByte x :=
  readByte_storeAtHl s _ x

/-- A push leaves a cell that no store reaches. -/
theorem cellAfterPush_of_unreached (s : State) (v : Word) {x : Word} (hx : ∀ a, storeHits a x = false) :
    s.cellAfterPush v x = s.readByte x := by
  simp [cellAfterPush, hx]

end State

/-- The outcome is a next state in which cell `x` reads as in `s`. -/
inductive KeepsCell (x : Word) (s : State) : Host.Outcome State Fault Refusal → Prop
  | next {t : State} (h : t.readByte x = s.readByte x) : KeepsCell x s (.next t)

namespace KeepsCell

variable {x : Word} {s : State}

/-- A conditional instruction keeps the cell in both branches. -/
theorem ite {c : Prop} [Decidable c] {o o' : Host.Outcome State Fault Refusal} (h : KeepsCell x s o)
    (h' : KeepsCell x s o') : KeepsCell x s (if c then o else o') := by
  split <;> assumption

/-- The second page stores at HL or nowhere (R245). -/
theorem prefixCb (op2 : Byte) (hx : ∀ a, storeHits a x = false) : KeepsCell x s (execPrefixCb op2 s) := by
  unfold execPrefixCb
  split
  · unfold execRotateR
    split <;> exact .next (by simp)
  · unfold execRotateHl
    split <;> exact .next (by simp [State.readByte_rotateAtHl, hx])
  · exact .next (by simp)
  · exact .next (by simp)
  · exact .next (by simp)
  · exact .next (by simp [State.readByte_storeAtHl, hx])
  · exact .next (by simp)
  · exact .next (by simp [State.readByte_storeAtHl, hx])

end KeepsCell

/-- Every instruction stores through the decoder, so it keeps a cell that no store reaches: row by row, by the operation it
stores with, the rows that do not store last. -/
theorem exec_keepsCell (i : Instr) (s : State) {x : Word} (hx : ∀ a, storeHits a x = false) : KeepsCell x s (exec i s) := by
  cases i with
  | ldBcA | ldDeA | ldA16A | ldhA8A | ldCA => exact .next (by simp [State.readByte_writeByte, hx])
  | ldHlR | ldHlN8 | ldHliA | ldHldA | incHl | decHl | resBHl | setBHl =>
    exact .next (by simp [State.readByte_storeAtHl, hx])
  | rlcHl | rrcHl | rlHl | rrHl | slaHl | sraHl | swapHl | srlHl =>
    exact .next (by simp [State.readByte_rotateAtHl, hx])
  | ldA16Sp => exact .next (by simp [State.readByte_writeWord, hx])
  | pushRr | pushAf => exact .next (by simp [State.readByte_push16, State.cellAfterPush_of_unreached, hx])
  | callA16 | rst => exact .next (by simp [State.readByte_callTo, State.cellAfterPush_of_unreached, hx])
  | callCcA16 => exact .ite (.next (by simp [State.readByte_callTo, State.cellAfterPush_of_unreached, hx])) (.next rfl)
  | jrCcE8 | jpCcA16 | retCc => exact .ite (.next (by simp)) (.next (by simp))
  | prefixCb op2 => exact .prefixCb op2 hx
  | _ => exact .next (by simp)

/-! ### The unusable window -/

namespace State

section

variable {x : Word} (hlo : 0xFEA0 ≤ x) (hhi : x < 0xFEFF)

include hhi

/-- The memory-mapped registers, which the machine itself writes past the decoder, lie above the window (R83). -/
theorem ne_of_unusable {a : Word} (ha : 0xFEFF ≤ a) : x ≠ a := by
  rintro rfl
  exact absurd hhi (BitVec.not_lt.mpr ha)

theorem readByte_requestInterrupt_unusable (s : State) (n : Nat) : (s.requestInterrupt n).readByte x = s.readByte x := by
  rw [readByte_requestInterrupt, if_neg (ne_of_unusable hhi (by decide))]

theorem readByte_updateTimer_unusable (s : State) (t : Nat) : (s.updateTimer t).readByte x = s.readByte x :=
  readByte_updateTimer_other s t (ne_of_unusable hhi (by decide)) (ne_of_unusable hhi (by decide))
    (ne_of_unusable hhi (by decide))

include hlo

/-- A store whose target is in the window is discarded, and no mirror cell lies in it (R63). -/
theorem readByte_writeByte_unusable (s : State) (a : Word) (v : Byte) :
    (s.writeByte a v).readByte x = s.readByte x := by
  rw [readByte_writeByte, storeHits_unusable a x hlo hhi]
  rfl

/-- An entry pushes PC through the decoder and clears a bit of IF (R315). -/
theorem readByte_handleInterrupts_unusable (s : State) : s.handleInterrupts.readByte x = s.readByte x := by
  obtain hsame | ⟨-, n, -, -, -, -, hentry⟩ := handleInterrupts_cases s
  · rw [hsame]
  · rw [hentry, readByte_enterInterrupt, if_neg (ne_of_unusable hhi (by decide)),
      cellAfterPush_of_unreached s s.pc (fun a => storeHits_unusable a x hlo hhi)]

theorem readByte_finishStep_unusable (s : State) : s.finishStep.readByte x = s.readByte x := by
  cases hf : s.fatal with
  | some r => rw [finishStep_fatal s hf]
  | none =>
    rw [finishStep_live s hf, readByte_handleInterrupts_unusable hlo hhi, readByte_updateTimer_unusable hhi]

theorem readByte_exec_unusable {i : Instr} {s t : State} (h : exec i s = .next t) : t.readByte x = s.readByte x := by
  have hkeep := exec_keepsCell i s (fun a => storeHits_unusable a x hlo hhi)
  rw [h] at hkeep
  obtain ⟨hx⟩ := hkeep
  exact hx

/-- A step is idle or runs a meaning, and ends with the timer update and the interrupt check (R300). -/
theorem readByte_step_unusable {s t : State} (h : step s = .next t) : t.readByte x = s.readByte x := by
  obtain ⟨-, ⟨-, rfl⟩ | ⟨-, u, hu, rfl⟩⟩ := step_next_cases h
  · exact readByte_finishStep_unusable hlo hhi _
  · rw [readByte_finishStep_unusable hlo hhi, readByte_exec_unusable hlo hhi hu]
    rfl

end

end State

/-- Settles O10: every store a step makes goes through the decoder or to a register above the window. -/
theorem unusableWindowIsNeverWritten : Obligations.UnusableWindowIsNeverWritten := by
  unfold Obligations.UnusableWindowIsNeverWritten
  intro s x hlo hhi
  exact ⟨fun _ h => State.readByte_step_unusable hlo hhi h, State.readByte_writeByte_unusable hlo hhi s,
    State.readByte_writeByte_unusable hlo hhi s, fun n => State.readByte_requestInterrupt_unusable hhi s n.val⟩

/-! ### Byte and word stores -/

/-- Settles O15: the decoder's law and its frame. -/
theorem byteStoreGoesThroughTheAddressDecoder : Obligations.ByteStoreGoesThroughTheAddressDecoder := by
  unfold Obligations.ByteStoreGoesThroughTheAddressDecoder
  exact fun s a v => ⟨State.readByte_writeByte s a v, State.writeByte_only_mem s a v⟩

/-- The high byte as a quotient (R20). -/
theorem hiByte_eq_ofNat (w : Word) : hiByte w = BitVec.ofNat 8 (w.toNat / 256) := by
  apply BitVec.eq_of_toNat_eq
  simp [hiByte, Nat.shiftRight_eq_div_pow]

/-- The low byte as a remainder (R20). -/
theorem loByte_eq_ofNat (w : Word) : loByte w = BitVec.ofNat 8 (w.toNat % 256) := by
  apply BitVec.eq_of_toNat_eq
  simp [loByte]

/-- Settles O16: a word store is two byte stores, a word read two byte reads. -/
theorem wordsAreTwoDecodedBytesLittleEndian : Obligations.WordsAreTwoDecodedBytesLittleEndian := by
  unfold Obligations.WordsAreTwoDecodedBytesLittleEndian
  intro s a v
  rw [← hiByte_eq_ofNat, ← loByte_eq_ofNat]
  exact ⟨State.readByte_writeWord s a v, State.readWord_toNat s a⟩

end Sys2Proof.Machine
end

section
/-! SUPPORT. Encoding, then decoding, row by row of the opcode tables: the bytes `encode` gives are read back, whatever follows
them (30_encoding.md R90 to R104). -/

namespace Sys2Proof

@[simp] theorem Reg8.code_lt (r : Reg8) : r.code < 8 := by
  cases r <;> decide

namespace Machine

/-! ### The fields of a composed opcode byte, one by one (table FD) -/

section

variable {x y z : Nat} (hx : x < 4) (hy : y < 8) (hz : z < 8)

include hx hy hz

@[simp] theorem fieldX_opByte : fieldX (opByte x y z) = x := (fields_opByte hx hy hz).1

@[simp] theorem fieldY_opByte : fieldY (opByte x y z) = y := (fields_opByte hx hy hz).2.1

@[simp] theorem fieldZ_opByte : fieldZ (opByte x y z) = z := (fields_opByte hx hy hz).2.2

end

/-! ### How each instruction format is read (table FM) -/

/-- An opcode byte and its little-endian operand word (R91, R93). -/
theorem encodedAs_withWord {op : Byte} {w : Word} {f : Word → Instr} (hl : (f w).length = 3)
    (h : ∀ b1 b2, decodeBytes op b1 b2 = f (mkWord b2 b1)) : EncodedAs (withWord op w) (f w) := by
  apply encodedAs_three hl
  rw [h, mkWord_hiByte_loByte]

/-- The byte 0xCB and the second byte (R245). -/
theorem encodedAs_cb (op2 : Byte) : EncodedAs [0xCB, op2] (decodeCb op2) :=
  encodedAs_two (Laws.Encoding.decodeCb_length op2) fun _ => rfl

theorem encodedAs_cbBytes {x y z : Nat} {i : Instr} (h : decodeCb (opByte x y z) = i) : EncodedAs (cbBytes x y z) i :=
  h ▸ encodedAs_cb _

/-! ### The round trip -/

/-- The bytes of a well-formed instruction are read as the instruction it stands for: by the format of its row, and within the
row by its register, pair or condition. -/
theorem encodedAs_encode (i : Instr) (hwf : i.wellFormed = true) : EncodedAs (encode i) i.canonical := by
  cases i with
  | ldRR rd rs => exact encodedAs_one rfl fun _ _ => by simp [decodeBytes, decodeBlock1, regOf_code, Instr.canonical]
  | ldRHl r | ldHlR r | incR r | decR r => exact encodedAs_one rfl fun _ _ => by cases r <;> rfl
  | ldRN8 r => exact encodedAs_two rfl fun _ => by cases r <;> rfl
  | addAR r | adcAR r | subR r | sbcAR r | andR r | xorR r | orR r | cpR r =>
    exact encodedAs_one rfl fun _ _ => by simp [decodeBytes, decodeBlock2, regOf_code, aluR, Instr.canonical]
  | incRr p | decRr p | addHlRr p | pushRr p | popRr p => exact encodedAs_one rfl fun _ _ => by cases p <;> rfl
  | ldRrN16 p => exact encodedAs_withWord rfl fun _ _ => by cases p <;> rfl
  | retCc cc => exact encodedAs_one rfl fun _ _ => by cases cc <;> rfl
  | jrCcE8 cc => exact encodedAs_two rfl fun _ => by cases cc <;> rfl
  | jpCcA16 cc | callCcA16 cc => exact encodedAs_withWord rfl fun _ _ => by cases cc <;> rfl
  | rst t =>
    have ht : t < 8 := of_decide_eq_true hwf
    exact encodedAs_one rfl fun _ _ => by simp [decodeBytes, decodeBlock3, ht, Instr.canonical]
  | ldHlN8 | ldhA8A | ldhAA8 | ldHlSpE8 | addAN8 | adcAN8 | subN8 | sbcAN8 | andN8 | xorN8 | orN8 | cpN8 | addSpE8 | jrE8 =>
    exact encodedAs_two rfl fun _ => rfl
  | ldA16A | ldAA16 | ldA16Sp | jpA16 | callA16 => exact encodedAs_withWord rfl fun _ _ => rfl
  | prefixCb op2 => exact encodedAs_cb op2
  | rlcR r | rrcR r | rlR r | rrR r | slaR r | sraR r | swapR r | srlR r =>
    exact encodedAs_cbBytes (by simp [decodeCb, regOf_code, rotateR, Instr.canonical])
  | rlcHl | rrcHl | rlHl | rrHl | slaHl | sraHl | swapHl | srlHl => exact encodedAs_cbBytes rfl
  | bitBR b | resBR b | setBR b =>
    have hb : b < 8 := of_decide_eq_true hwf
    exact encodedAs_cbBytes (by simp [decodeCb, regOf_code, hb, Instr.canonical])
  | bitBHl b | resBHl b | setBHl b =>
    have hb : b < 8 := of_decide_eq_true hwf
    exact encodedAs_cbBytes (by simp [decodeCb, regOf, hb, Instr.canonical])
  | _ => exact encodedAs_one rfl fun _ _ => rfl

/-- Settles O1: the round trip of every row. -/
theorem encodeThenDecodeGivesTheInstruction : Obligations.EncodeThenDecodeGivesTheInstruction := by
  unfold Obligations.EncodeThenDecodeGivesTheInstruction
  exact fun i rest hwf => encodedAs_encode i hwf rest

end Machine

end Sys2Proof
end

section
/-! SUPPORT. Every opcode byte begins the encoding of some row, so every three bytes are the encoding of an instruction and what
follows it; with the round trip, decoding loses nothing (30_encoding.md R92, R99, R105). -/

namespace Sys2Proof.Machine

/-! ### Field values (30_encoding.md R95 to R98) -/

/-- A register field names a register or the byte at HL. -/
theorem exists_reg_code {y : Nat} (hy : y < 8) : (∃ r : Reg8, r.code = y) ∨ y = 6 := by
  interval_cases y
  exacts [.inl ⟨.b, rfl⟩, .inl ⟨.c, rfl⟩, .inl ⟨.d, rfl⟩, .inl ⟨.e, rfl⟩, .inl ⟨.h, rfl⟩, .inl ⟨.l, rfl⟩, .inr rfl,
    .inl ⟨.a, rfl⟩]

/-- The fields `p` and `q` are the two parts of the field `y`. -/
theorem exists_pair_code {y : Nat} (hy : y < 8) : ∃ p : Reg16, 2 * p.code = y ∨ 2 * p.code + 1 = y := by
  interval_cases y
  exacts [⟨.bc, .inl rfl⟩, ⟨.bc, .inr rfl⟩, ⟨.de, .inl rfl⟩, ⟨.de, .inr rfl⟩, ⟨.hl, .inl rfl⟩, ⟨.hl, .inr rfl⟩,
    ⟨.sp, .inl rfl⟩, ⟨.sp, .inr rfl⟩]

theorem exists_cond_code {y : Nat} (hy : y < 4) : ∃ cc : Cond, cc.code = y := by
  interval_cases y
  exacts [⟨.nz, rfl⟩, ⟨.z, rfl⟩, ⟨.nc, rfl⟩, ⟨.c, rfl⟩]

/-! ### The rows of the opcode map -/

/-- An opcode byte begins the encoding of a row of one of the three formats (table FM). -/
inductive BeginsRow (op : Byte) : Prop
  /-- The instruction is the opcode byte. -/
  | one (i : Instr) (hwf : i.wellFormed = true := by rfl) (henc : encode i = [op] := by rfl)
  /-- One operand byte follows, any of the 256. -/
  | two (f : Byte → Instr) (hwf : ∀ n, (f n).wellFormed = true := by exact fun _ => rfl)
      (henc : ∀ n, encode (f n) = [op, n] := by exact fun _ => rfl)
  /-- A little-endian operand word follows, any of the 65536. -/
  | three (f : Word → Instr) (hwf : ∀ w, (f w).wellFormed = true := by exact fun _ => rfl)
      (henc : ∀ w, encode (f w) = withWord op w := by exact fun _ => rfl)

namespace BeginsRow

/-- Block 0 (table OB rows 0x to 3x), by the field `z`. -/
theorem block0 {y z : Nat} (hy : y < 8) (hz : z < 8) : BeginsRow (opByte 0 y z) := by
  interval_cases z
  · by_cases h4 : y < 4
    · interval_cases y
      exacts [.one .nop, .three .ldA16Sp, .one .stop, .two .jrE8]
    · obtain ⟨cc, hcc⟩ := exists_cond_code (show y - 4 < 4 by omega)
      obtain rfl : y = 4 + cc.code := by omega
      exact .two (.jrCcE8 cc)
  · obtain ⟨p, rfl | rfl⟩ := exists_pair_code hy
    exacts [.three (.ldRrN16 p), .one (.addHlRr p)]
  · interval_cases y
    exacts [.one .ldBcA, .one .ldABc, .one .ldDeA, .one .ldADe, .one .ldHliA, .one .ldAHli, .one .ldHldA, .one .ldAHld]
  · obtain ⟨p, rfl | rfl⟩ := exists_pair_code hy
    exacts [.one (.incRr p), .one (.decRr p)]
  · obtain ⟨r, rfl⟩ | rfl := exists_reg_code hy
    exacts [.one (.incR r), .one .incHl]
  · obtain ⟨r, rfl⟩ | rfl := exists_reg_code hy
    exacts [.one (.decR r), .one .decHl]
  · obtain ⟨r, rfl⟩ | rfl := exists_reg_code hy
    exacts [.two (.ldRN8 r), .two .ldHlN8]
  · interval_cases y
    exacts [.one .rlca, .one .rrca, .one .rla, .one .rra, .one .daa, .one .cpl, .one .scf, .one .ccf]

/-- Block 1: the register loads and HALT. -/
theorem block1 {y z : Nat} (hy : y < 8) (hz : z < 8) : BeginsRow (opByte 1 y z) := by
  obtain ⟨rd, rfl⟩ | rfl := exists_reg_code hy <;> obtain ⟨rs, rfl⟩ | rfl := exists_reg_code hz
  exacts [.one (.ldRR rd rs), .one (.ldRHl rd), .one (.ldHlR rs), .one .halt]

/-- Block 2: accumulator arithmetic and logic. -/
theorem block2 {y z : Nat} (hy : y < 8) (hz : z < 8) : BeginsRow (opByte 2 y z) := by
  obtain ⟨r, rfl⟩ | rfl := exists_reg_code hz <;> interval_cases y
  exacts [.one (.addAR r), .one (.adcAR r), .one (.subR r), .one (.sbcAR r), .one (.andR r), .one (.xorR r), .one (.orR r),
    .one (.cpR r), .one .addAHl, .one .adcAHl, .one .subHl, .one .sbcAHl, .one .andHl, .one .xorHl, .one .orHl, .one .cpHl]

/-- Block 3 (table OB rows Cx to Fx), by the field `z`. -/
theorem block3 {y z : Nat} (hy : y < 8) (hz : z < 8) : BeginsRow (opByte 3 y z) := by
  interval_cases z
  · by_cases h4 : y < 4
    · obtain ⟨cc, rfl⟩ := exists_cond_code h4
      exact .one (.retCc cc)
    · interval_cases y
      exacts [.two .ldhA8A, .two .addSpE8, .two .ldhAA8, .two .ldHlSpE8]
  · interval_cases y
    exacts [.one (.popRr .bc), .one .ret, .one (.popRr .de), .one .reti, .one (.popRr .hl), .one .jpHl, .one .popAf,
      .one .ldSpHl]
  · by_cases h4 : y < 4
    · obtain ⟨cc, rfl⟩ := exists_cond_code h4
      exact .three (.jpCcA16 cc)
    · interval_cases y
      exacts [.one .ldCA, .three .ldA16A, .one .ldAC, .three .ldAA16]
  · interval_cases y
    exacts [.three .jpA16, .two .prefixCb, .one .illegalD3, .one .illegalDB, .one .illegalE3, .one .illegalEB, .one .di, .one .ei]
  · by_cases h4 : y < 4
    · obtain ⟨cc, rfl⟩ := exists_cond_code h4
      exact .three (.callCcA16 cc)
    · interval_cases y
      exacts [.one .illegalE4, .one .illegalEC, .one .illegalF4, .one .illegalFC]
  · interval_cases y
    exacts [.one (.pushRr .bc), .three .callA16, .one (.pushRr .de), .one .illegalDD, .one (.pushRr .hl), .one .illegalED,
      .one .pushAf, .one .illegalFD]
  · interval_cases y
    exacts [.two .addAN8, .two .adcAN8, .two .subN8, .two .sbcAN8, .two .andN8, .two .xorN8, .two .orN8, .two .cpN8]
  · exact .one (.rst y) (decide_eq_true hy)

/-- Every byte begins a row (R105). -/
theorem all (op : Byte) : BeginsRow op := by
  have hx : fieldX op < 4 := Nat.div_lt_of_lt_mul op.isLt
  have hy : fieldY op < 8 := Nat.mod_lt _ (by decide)
  have hz : fieldZ op < 8 := Nat.mod_lt _ (by decide)
  rw [← opByte_fields op]
  generalize fieldX op = x at hx
  interval_cases x
  exacts [block0 hy hz, block1 hy hz, block2 hy hz, block3 hy hz]

end BeginsRow

/-- After every opcode byte the instruction takes a fixed number of bytes, and whatever they are they encode one (R90, R105). -/
theorem exists_encode_eq_take (op : Byte) :
    ∃ n, 1 ≤ n ∧ n ≤ 3 ∧ ∀ b1 b2, ∃ i : Instr, i.wellFormed = true ∧ encode i = [op, b1, b2].take n := by
  obtain ⟨i, hwf, henc⟩ | ⟨f, hwf, henc⟩ | ⟨f, hwf, henc⟩ := BeginsRow.all op
  · exact ⟨1, by decide, by decide, fun _ _ => ⟨i, hwf, henc⟩⟩
  · exact ⟨2, by decide, by decide, fun b1 _ => ⟨f b1, hwf b1, henc b1⟩⟩
  · exact ⟨3, by decide, by decide, fun b1 b2 => ⟨f (mkWord b2 b1), hwf _, by simp [henc, withWord]⟩⟩

/-! ### The instruction a term stands for -/

/-- The second page is faithful: every second byte gives a well-formed instruction with that second byte (table OC). -/
theorem decodeCb_faithful :
    ∀ op2 : Byte, (decodeCb op2).wellFormed = true ∧ encode (decodeCb op2) = [0xCB, op2] := by
  decide

theorem wellFormed_canonical {i : Instr} (h : i.wellFormed = true) : i.canonical.wellFormed = true := by
  cases i with
  | prefixCb op2 => exact (decodeCb_faithful op2).1
  | _ => exact h

theorem encode_canonical (i : Instr) : encode i.canonical = encode i := by
  cases i with
  | prefixCb op2 => exact (decodeCb_faithful op2).2
  | _ => rfl

/-- A term is as long as its encoding (table FM). -/
theorem length_encode (i : Instr) : (encode i).length = i.length := by
  cases i <;> rfl

/-! ### Decoding, then encoding -/

/-- What three bytes decode to is well formed and encoded by as many of them as the first one says, one, two or three. -/
theorem decodeBytes_faithful (op : Byte) :
    ∃ n, 1 ≤ n ∧ n ≤ 3 ∧ ∀ b1 b2, (decodeBytes op b1 b2).length = n ∧ (decodeBytes op b1 b2).wellFormed = true ∧
      encode (decodeBytes op b1 b2) = [op, b1, b2].take n := by
  obtain ⟨n, h1, h3, hrow⟩ := exists_encode_eq_take op
  refine ⟨n, h1, h3, fun b1 b2 => ?_⟩
  obtain ⟨i, hwf, henc⟩ := hrow b1 b2
  have hdec : decodeBytes op b1 b2 = i.canonical := by
    apply decode_three (rest := [op, b1, b2].drop n)
    have h := encodedAs_encode i hwf ([op, b1, b2].drop n)
    rwa [henc, List.take_append_drop] at h
  have hcanon : encode (decodeBytes op b1 b2) = [op, b1, b2].take n := by rw [hdec, encode_canonical, henc]
  refine ⟨?_, hdec ▸ wellFormed_canonical hwf, hcanon⟩
  rw [← length_encode, hcanon, List.length_take]
  exact min_eq_left h3

/-- Settles O2: every three bytes begin with the encoding of a row, and the round trip reads it back. -/
theorem decodeThenEncodeGivesTheBytes : Obligations.DecodeThenEncodeGivesTheBytes := by
  unfold Obligations.DecodeThenEncodeGivesTheBytes
  intro b0 b1 b2
  obtain ⟨n, -, -, h⟩ := decodeBytes_faithful b0
  obtain ⟨hlen, hwf, henc⟩ := h b1 b2
  exact ⟨hwf, hlen ▸ henc⟩

/-- Settles O3: the format of the row that the first byte begins. -/
theorem firstByteAloneDecidesTheLength : Obligations.FirstByteAloneDecidesTheLength := by
  unfold Obligations.FirstByteAloneDecidesTheLength
  intro b0 b1 b2 c1 c2
  obtain ⟨n, h1, h3, h⟩ := decodeBytes_faithful b0
  obtain ⟨hb, -⟩ := h b1 b2
  obtain ⟨hc, -⟩ := h c1 c2
  rw [hb, hc]
  refine ⟨rfl, h1, h3, ?_⟩
  rintro rfl
  exact hb.symm.trans (Laws.Encoding.decodeCb_length b1)

end Sys2Proof.Machine
end

section
/-! SUPPORT. The fatal error is raised by twelve opcode bytes and by no other: a meaning that completes reports a count of
table CY, and only STOP and the illegal bytes have none (30_encoding.md R102, R103; 60_exceptions.md R304, R306). -/

namespace Sys2Proof.Machine

/-! ### Which instructions report a count -/

/-- The rotate or shift of a register that the field `ooo` selects (R98). -/
theorem execRotateR_eq_exec (r : Reg8) (s : State) : ∀ o, execRotateR o r s = exec (rotateR o r) s
  | 0 | 1 | 2 | 3 | 4 | 5 | 6 | _ + 7 => rfl

/-- The rotate or shift of the byte at HL that the field `ooo` selects (R98). -/
theorem execRotateHl_eq_exec (s : State) : ∀ o, execRotateHl o s = exec (rotateHl o) s
  | 0 | 1 | 2 | 3 | 4 | 5 | 6 | _ + 7 => rfl

/-- 0xCB has the meaning of the instruction its second byte selects: by the fields `x` and `z` of that byte (R245). -/
theorem exec_prefixCb (op2 : Byte) (s : State) : exec (.prefixCb op2) s = exec (decodeCb op2) s := by
  show execPrefixCb op2 s = exec (decodeCb op2) s
  unfold execPrefixCb decodeCb
  generalize fieldX op2 = x, regOf (fieldZ op2) = operand
  match x, operand with
  | 0, some r => exact execRotateR_eq_exec r s (fieldY op2)
  | 0, none => exact execRotateHl_eq_exec s (fieldY op2)
  | 1, some _ | 1, none | 2, some _ | 2, none | _ + 3, some _ | _ + 3, none => rfl

/-- Every second-page instruction answers a next state that reports its count, whatever a condition would be: it has none. -/
theorem exec_decodeCb_reports (op2 : Byte) (s : State) :
    ∃ t, exec (decodeCb op2) s = .next t ∧ t.elapsed = tableCY (decodeCb op2) false := by
  unfold decodeCb
  split
  · unfold rotateR
    split <;> exact ⟨_, rfl, rfl⟩
  · unfold rotateHl
    split <;> exact ⟨_, rfl, rfl⟩
  all_goals exact ⟨_, rfl, rfl⟩

/-- Every instruction answers a next state that reports its count of table CY, by whether its condition holds (R370). -/
theorem exec_reports (i : Instr) (s : State) :
    ∃ t, exec i s = .next t ∧ t.elapsed = tableCY i.canonical (s.taken i) := by
  cases i with
  | prefixCb op2 =>
    rw [exec_prefixCb]
    exact exec_decodeCb_reports op2 s
  | jrCcE8 cc | jpCcA16 cc | callCcA16 cc | retCc cc =>
    show ∃ t : State, (if s.cond cc then complete _ _ else complete _ _) = _ ∧ t.elapsed = tableCY _ (s.cond cc)
    cases s.cond cc <;> exact ⟨_, rfl, rfl⟩
  | _ => exact ⟨_, rfl, rfl⟩

theorem tableCY_decodeCb_ne_none : ∀ (op2 : Byte) (taken : Bool), tableCY (decodeCb op2) taken ≠ none := by
  decide

/-- Only STOP and the illegal bytes have no count (R304). -/
theorem encode_of_no_count {i : Instr} {taken : Bool} (h : tableCY i.canonical taken = none) :
    ∃ op, encode i = [op] ∧ (op ∈ illegalBytes ∨ op = 0x10) := by
  cases i with
  | prefixCb op2 => exact absurd h (tableCY_decodeCb_ne_none op2 taken)
  | stop => exact ⟨_, rfl, .inr rfl⟩
  | illegalD3 | illegalDB | illegalDD | illegalE3 | illegalE4 | illegalEB | illegalEC | illegalED | illegalF4 | illegalFC
  | illegalFD => exact ⟨_, rfl, .inl (by decide)⟩
  | _ => cases taken <;> cases h

/-! ### The opcode byte of what is fetched -/

/-- An instruction read from its opcode byte alone is encoded by that byte. -/
theorem eq_opcode_of_encode_decodeBytes {op b1 b2 v : Byte} (h : encode (decodeBytes op b1 b2) = [v]) : v = op := by
  obtain ⟨n, hn, -, hrow⟩ := decodeBytes_faithful op
  obtain ⟨k, rfl⟩ := Nat.exists_eq_add_of_le' hn
  obtain ⟨-, -, henc⟩ := hrow b1 b2
  rw [h, List.take_succ_cons] at henc
  exact (List.cons.inj henc).1

/-- An illegal byte is an instruction of one byte that raises the fatal error with that byte (R102, R246). -/
theorem exec_of_mem_illegalBytes {op : Byte} (h : op ∈ illegalBytes) (b1 b2 : Byte) :
    (decodeBytes op b1 b2).length = 1 ∧ ∀ s, exec (decodeBytes op b1 b2) s = .next (s.raiseFatal .illegal op) := by
  simp only [illegalBytes, List.mem_cons, List.not_mem_nil, or_false] at h
  rcases h with rfl | rfl | rfl | rfl | rfl | rfl | rfl | rfl | rfl | rfl | rfl <;> exact ⟨rfl, fun _ => rfl⟩

namespace State

/-- Past a one-byte instruction PC is one past the opcode byte (R27). -/
theorem ready_pc_sub_one {s : State} {i : Instr} (h : i.length = 1) : (s.ready i).pc - 1 = s.pc := by
  show s.pc + BitVec.ofNat 16 i.length - 1 = s.pc
  rw [h]
  exact BitVec.add_sub_cancel _ _

/-- The end of the step neither raises nor clears the fatal error (R300, R304). -/
@[simp] theorem fatal_finishStep (s : State) : s.finishStep.fatal = s.fatal := by
  cases hf : s.fatal with
  | some r => rw [finishStep_fatal s hf, hf]
  | none => rw [finishStep_live s hf, handleInterrupts_fatal, updateTimer_fatal, hf]

/-- The fatal record once the instruction has run: by the opcode byte at PC. -/
theorem fatal_of_exec_fetched {s t : State} (hlive : s.Live) (h : exec s.fetched (s.ready s.fetched) = .next t) :
    t.fatal =
      if s.readByte s.pc ∈ illegalBytes then some ⟨.illegal, s.readByte s.pc, s.pc⟩
      else if s.readByte s.pc = 0x10 then some ⟨.unimplemented, 0x10, s.pc⟩
      else none := by
  split
  case isTrue hill =>
    obtain ⟨hlen, hexec⟩ := exec_of_mem_illegalBytes hill (s.readByte (s.pc + 1)) (s.readByte (s.pc + 2))
    obtain rfl := Host.Outcome.next.inj ((hexec _).symm.trans h)
    rw [raiseFatal_fatal, ready_pc_sub_one (i := s.fetched) hlen]
  case isFalse hill =>
    split
    case isTrue hstop =>
      have hfetch : s.fetched = .stop := by unfold fetched; rw [hstop]; rfl
      rw [hfetch] at h
      obtain rfl := Host.Outcome.next.inj h
      rw [raiseFatal_fatal, ready_pc_sub_one rfl]
    case isFalse hstop =>
      obtain ⟨_, _, u, hkept, rfl⟩ | ⟨k, op, -, -, rfl⟩ := exec_next_cases h
      · exact hkept.fatal_eq.trans hlive
      · obtain ⟨t, ht, hcount⟩ := exec_reports s.fetched (s.ready s.fetched)
        obtain rfl := Host.Outcome.next.inj (h.symm.trans ht)
        obtain ⟨v, henc, hv⟩ := encode_of_no_count hcount.symm
        obtain rfl : v = s.readByte s.pc := eq_opcode_of_encode_decodeBytes henc
        exact absurd hv (not_or.mpr ⟨hill, hstop⟩)

end State

/-- The step of a live state that does not idle runs the instruction at PC (R300). -/
theorem step_running {s : State} (hlive : s.Live) (hrun : ¬ s.Idling) :
    step s = closeStep (exec s.fetched (s.ready s.fetched)) := by
  rw [step_live s hlive, if_neg (fun h => hrun (s.idles_iff.mp h))]

/-- Settles O9: the instruction at PC answers a next state with that record, and the end of the step leaves it. -/
theorem fatalErrorExactlyForTheTwelveOpcodes : Obligations.FatalErrorExactlyForTheTwelveOpcodes := by
  unfold Obligations.FatalErrorExactlyForTheTwelveOpcodes
  intro s hlive hrun
  obtain ⟨t, ht, -⟩ := exec_reports s.fetched (s.ready s.fetched)
  refine ⟨t.finishStep, ?_, ?_⟩
  · rw [step_running hlive hrun, ht]
    rfl
  · rw [State.fatal_finishStep, State.fatal_of_exec_fetched hlive ht]

end Sys2Proof.Machine
end

section
/-! SUPPORT. The jumps change PC and nothing else (44_jumps.md R210 to R214), and sample words of tables OB and OC. -/

namespace Sys2Proof.Machine

/-- The target of a relative jump is the PC past the operand plus the signed displacement, modulo 65536 (R94, R210). -/
theorem relative_toNat (s : State) (e : Byte) :
    ((s.relative e).toNat : Int) = ((s.pc.toNat : Int) + e.toInt) % 65536 := by
  have hsext : (sext16 e).toInt = e.toInt := BitVec.toInt_signExtend_of_le (by decide)
  rw [← hsext, State.relative, BitVec.toNat_add, BitVec.toInt_eq_toNat_cond]
  split <;> omega

/-- PC holds `n`, and nothing else but the output has changed. -/
def JumpedTo (n : Int) (s t : State) : Prop :=
  (t.pc.toNat : Int) = n ∧ OtherRegs [] s t ∧ t.f = s.f ∧ t.sp = s.sp ∧ SameControl s t ∧ SameMem s t

section

variable {i : Instr} {s : State} {w : Word} {n : Int} (hw : (w.toNat : Int) = n)

include hw

/-- A jump that is taken sets PC; one that is not taken sets it to itself. -/
theorem completes_of_setPc {m : Nat} (he : exec i s = complete (some m) (s.setPc w)) : Completes i s m (JumpedTo n s) :=
  completes_of_complete he
    ⟨hw, fun r _ => by cases r <;> rfl, rfl, rfl, ⟨rfl, rfl, rfl, rfl, rfl⟩, fun _ => rfl⟩

/-- A conditional jump, in its two branches (R211, R213). -/
theorem completes_of_ite_setPc {c : Bool} {m k : Nat}
    (he : exec i s = if c then complete (some m) (s.setPc w) else complete (some k) s) :
    Completes i s (if c then m else k) (JumpedTo (if c then n else s.pc.toNat) s) := by
  cases c with
  | true => exact completes_of_setPc hw he
  | false => exact completes_of_setPc rfl he

end

/-- Settles O47: the rows are read back, the conditions are their flags, and each jump, taken or not, sets PC alone. -/
theorem jumps : Obligations.Jumps := by
  unfold Obligations.Jumps
  intro cc e a s
  refine ⟨⟨encodedAs_encode (.jrE8 e) rfl, encodedAs_encode (.jrCcE8 cc e) rfl, encodedAs_encode (.jpA16 a) rfl,
      encodedAs_encode (.jpCcA16 cc a) rfl, encodedAs_encode .jpHl rfl⟩,
    ⟨.of_eq (Bool.not_eq_true' _), .rfl, .of_eq (Bool.not_eq_true' _), .rfl⟩, ⟨rfl, condOf_code cc⟩, ?_⟩
  simp only [List.forall_mem_cons]
  exact ⟨completes_of_setPc (relative_toNat s e) rfl, completes_of_ite_setPc (relative_toNat s e) rfl,
    completes_of_setPc rfl rfl, completes_of_ite_setPc rfl rfl, completes_of_setPc rfl rfl, List.forall_mem_nil _⟩

/-- Settles O4: the decoder runs on each word. -/
theorem wordsOfEachFamilyDecodeAsTheTablesSay : Obligations.WordsOfEachFamilyDecodeAsTheTablesSay := by
  unfold Obligations.WordsOfEachFamilyDecodeAsTheTablesSay
  decide

end Sys2Proof.Machine
end

section
/-! SUPPORT. What the loads write and what they leave (40_loads.md R120 to R146): one law per operation that a load or a store is
made of, then each statement of the family from these. -/

namespace Sys2Proof.Machine

/-! ### What the operations leave -/

/-- Every 8-bit register but those listed, the flags, SP, PC and the control state are unchanged. -/
def KeepsRegs (changed : List Reg8) (s t : State) : Prop := OtherRegs changed s t ∧ t.f = s.f ∧ Quiet s t

section

variable {s t u : State} {c c' : List Reg8}

theorem OtherRegs.trans (h : OtherRegs c s t) (h' : OtherRegs c' t u) : OtherRegs (c ++ c') s u := by
  intro r hr
  rw [List.mem_append, not_or] at hr
  obtain ⟨hc, hc'⟩ := hr
  exact (h' r hc').trans (h r hc)

theorem SameControl.trans (h : SameControl s t) (h' : SameControl t u) : SameControl s u := by
  obtain ⟨hime, hhalted, hdiv, htima, hfatal⟩ := h
  obtain ⟨hime', hhalted', hdiv', htima', hfatal'⟩ := h'
  exact ⟨hime'.trans hime, hhalted'.trans hhalted, hdiv'.trans hdiv, htima'.trans htima, hfatal'.trans hfatal⟩

theorem Quiet.trans (h : Quiet s t) (h' : Quiet t u) : Quiet s u := by
  obtain ⟨hsp, hpc, hctl⟩ := h
  obtain ⟨hsp', hpc', hctl'⟩ := h'
  exact ⟨hsp'.trans hsp, hpc'.trans hpc, hctl.trans hctl'⟩

theorem KeepsRegs.trans (h : KeepsRegs c s t) (h' : KeepsRegs c' t u) : KeepsRegs (c ++ c') s u := by
  obtain ⟨hregs, hf, hq⟩ := h
  obtain ⟨hregs', hf', hq'⟩ := h'
  exact ⟨hregs.trans hregs', hf'.trans hf, hq.trans hq'⟩

end

namespace State

/-- A register write (R95). -/
theorem keepsRegs_writeR8 (s : State) (r : Reg8) (v : Byte) : KeepsRegs [r] s (s.writeR8 r v) :=
  ⟨fun q hq => readR8_writeR8_other s r q v (List.ne_of_not_mem_cons hq), by simp, by simp [Quiet, SameControl]⟩

/-- HL read after it was written (R25). -/
@[simp] theorem getWord_setHl (s : State) (w : Word) : (s.setHl w).getWord .hl = w := getWord_setWord_same s .hl w

/-- HL written (R22). -/
theorem keepsRegs_setHl (s : State) (w : Word) : KeepsRegs [.h, .l] s (s.setHl w) := by
  refine ⟨fun r hr => ?_, rfl, rfl, rfl, rfl, rfl, rfl, rfl, rfl⟩
  cases r with
  | h | l => simp at hr
  | _ => rfl

/-- SP written (R34). -/
theorem setSp_frame (s : State) (w : Word) :
    OtherRegs [] s (s.setSp w) ∧ (s.setSp w).pc = s.pc ∧ SameControl s (s.setSp w) ∧ SameMem s (s.setSp w) :=
  ⟨fun r _ => readR8_setSp s w r, rfl, ⟨rfl, rfl, rfl, rfl, rfl⟩, fun _ => rfl⟩

/-- An operation that changes memory only. -/
theorem keepsRegs_of_only_mem {s t : State} (h : t = { s with mem := t.mem }) : KeepsRegs [] s t := by
  rw [h]
  exact ⟨fun r _ => by cases r <;> rfl, rfl, rfl, rfl, rfl, rfl, rfl, rfl, rfl⟩

/-- A byte store (R61). -/
theorem keepsRegs_writeByte (s : State) (a : Word) (v : Byte) : KeepsRegs [] s (s.writeByte a v) :=
  keepsRegs_of_only_mem (s.writeByte_only_mem a v)

/-- A word store (R65). -/
theorem keepsRegs_writeWord (s : State) (a v : Word) : KeepsRegs [] s (s.writeWord a v) :=
  keepsRegs_of_only_mem (s.writeWord_only_mem a v)

end State

/-! ### Loads of a register and stores of a byte -/

section

variable {i : Instr} {s : State} {m : Nat}

/-- A load puts a byte into one register (R121 to R123). -/
theorem completes_of_writeR8 {r : Reg8} {v : Byte} (he : exec i s = complete (some m) (s.writeR8 r v)) :
    Completes i s m (fun t => t.readR8 r = v ∧ OtherRegs [r] s t ∧ t.f = s.f ∧ Quiet s t ∧ SameMem s t) := by
  obtain ⟨hregs, hf, hq⟩ := s.keepsRegs_writeR8 r v
  exact completes_of_complete he ⟨by simp, hregs, hf, hq, by simp [SameMem]⟩

/-- A load of A (R126 and its like). -/
theorem completes_of_setA {v : Byte} (he : exec i s = complete (some m) (s.setA v)) :
    Completes i s m (fun t => t.a = v ∧ OtherRegs [.a] s t ∧ t.f = s.f ∧ Quiet s t ∧ SameMem s t) :=
  completes_of_writeR8 (r := .a) he

/-- A store puts a byte into the cells that the address decoder gives (R120, R124 and its like). -/
theorem completes_of_writeByte {a : Word} {v : Byte} (he : exec i s = complete (some m) (s.writeByte a v)) :
    Completes i s m (fun t => Stored a v s t ∧ OtherRegs [] s t ∧ t.f = s.f ∧ Quiet s t) :=
  completes_of_complete he ⟨s.readByte_writeByte a v, s.keepsRegs_writeByte a v⟩

end

/-- The high-page address as a number (R93, R136). -/
theorem highPage_eq_ofNat (o : Byte) : highPage o = BitVec.ofNat 16 (0xFF00 + o.toNat) := by
  rw [BitVec.ofNat_add, BitVec.ofNat_toNat]
  rfl

/-- Settles O28: each load writes one register. -/
theorem loadsIntoARegister : Obligations.LoadsIntoARegister := by
  unfold Obligations.LoadsIntoARegister
  intro rd rs n s
  exact ⟨⟨encodedAs_encode (.ldRR rd rs) rfl, encodedAs_encode (.ldRN8 rd n) rfl, encodedAs_encode (.ldRHl rd) rfl⟩,
    completes_of_writeR8 rfl, completes_of_writeR8 rfl, completes_of_writeR8 rfl⟩

/-- Settles O29: each load writes A, the last two from the high page. -/
theorem loadsIntoA : Obligations.LoadsIntoA := by
  unfold Obligations.LoadsIntoA
  intro a o s
  refine ⟨⟨encodedAs_encode .ldABc rfl, encodedAs_encode .ldADe rfl, encodedAs_encode (.ldAA16 a) rfl,
    encodedAs_encode (.ldhAA8 o) rfl, encodedAs_encode .ldAC rfl⟩, ?_⟩
  simp only [List.forall_mem_cons, ← highPage_eq_ofNat]
  exact ⟨completes_of_setA rfl, completes_of_setA rfl, completes_of_setA rfl, completes_of_setA rfl, completes_of_setA rfl,
    List.forall_mem_nil _⟩

/-- Settles O30: each store is a byte store at HL. -/
theorem storesAtHl : Obligations.StoresAtHl := by
  unfold Obligations.StoresAtHl
  intro rs n s
  exact ⟨⟨encodedAs_encode (.ldHlR rs) rfl, encodedAs_encode (.ldHlN8 n) rfl⟩, completes_of_writeByte rfl,
    completes_of_writeByte rfl⟩

/-- Settles O31: each store is a byte store of A. -/
theorem storesOfA : Obligations.StoresOfA := by
  unfold Obligations.StoresOfA
  intro a o s
  refine ⟨⟨encodedAs_encode .ldBcA rfl, encodedAs_encode .ldDeA rfl, encodedAs_encode (.ldA16A a) rfl,
    encodedAs_encode (.ldhA8A o) rfl, encodedAs_encode .ldCA rfl⟩, ?_⟩
  simp only [List.forall_mem_cons]
  exact ⟨completes_of_writeByte rfl, completes_of_writeByte rfl, completes_of_writeByte rfl, completes_of_writeByte rfl,
    completes_of_writeByte rfl, List.forall_mem_nil _⟩

/-! ### Loads and stores that step HL -/

section

variable {i : Instr} {s : State} {w : Word} {n : Nat} (hw : w.toNat = ((s.getWord .hl).toNat + n) % 65536)

include hw

/-- A store of A at the old HL, then HL written (R130, R131). -/
theorem completes_of_storeAtHl_setHl {m : Nat} (he : exec i s = complete (some m) ((s.storeAtHl s.a).setHl w)) :
    Completes i s m (fun t =>
      Stored s.hl s.a s t ∧ (t.getWord .hl).toNat = ((s.getWord .hl).toNat + n) % 65536 ∧
        OtherRegs [.h, .l] s t ∧ t.f = s.f ∧ Quiet s t) := by
  have hhl : (((s.storeAtHl s.a).setHl w).getWord .hl).toNat = ((s.getWord .hl).toNat + n) % 65536 := by
    rw [State.getWord_setHl, hw]
  have hregs := (s.keepsRegs_writeByte s.hl s.a).trans (State.keepsRegs_setHl _ w)
  exact completes_of_complete he ⟨s.readByte_storeAtHl s.a, hhl, hregs⟩

/-- A load of A from the old HL, then HL written (R132, R133). -/
theorem completes_of_setA_setHl {m : Nat} {v : Byte} (he : exec i s = complete (some m) ((s.setA v).setHl w)) :
    Completes i s m (fun t =>
      t.a = v ∧ (t.getWord .hl).toNat = ((s.getWord .hl).toNat + n) % 65536 ∧
        OtherRegs [.a, .h, .l] s t ∧ t.f = s.f ∧ Quiet s t ∧ SameMem s t) := by
  have hhl : (((s.setA v).setHl w).getWord .hl).toNat = ((s.getWord .hl).toNat + n) % 65536 := by
    rw [State.getWord_setHl, hw]
  obtain ⟨hregs, hf, hq⟩ := (s.keepsRegs_writeR8 .a v).trans (State.keepsRegs_setHl _ w)
  exact completes_of_complete he ⟨rfl, hhl, hregs, hf, hq, fun _ => rfl⟩

end

/-- Settles O32: the pair steps modulo 2^16, and what uses the old HL comes first. -/
theorem loadsAndStoresThroughHlStepHl : Obligations.LoadsAndStoresThroughHlStepHl := by
  unfold Obligations.LoadsAndStoresThroughHlStepHl
  intro s
  have hup : (s.hl + 1).toNat = ((s.getWord .hl).toNat + 1) % 65536 := BitVec.toNat_add _ _
  have hdown : (s.hl - 1).toNat = ((s.getWord .hl).toNat + 65535) % 65536 := by
    rw [BitVec.toNat_sub, Nat.add_comm]
    rfl
  refine ⟨⟨encodedAs_encode .ldHliA rfl, encodedAs_encode .ldHldA rfl, encodedAs_encode .ldAHli rfl,
    encodedAs_encode .ldAHld rfl⟩, ?_, ?_⟩ <;> simp only [List.forall_mem_cons]
  · exact ⟨completes_of_storeAtHl_setHl hup rfl, completes_of_storeAtHl_setHl hdown rfl, List.forall_mem_nil _⟩
  · exact ⟨completes_of_setA_setHl hup rfl, completes_of_setA_setHl hdown rfl, List.forall_mem_nil _⟩

/-! ### Loads of words -/

/-- Settles O33: one pair is written, and HL is copied to SP. -/
theorem loadsOfPairs : Obligations.LoadsOfPairs := by
  unfold Obligations.LoadsOfPairs
  intro p n s
  obtain ⟨ha, hf, hpc, hmem, hctl⟩ := s.writeR16_frame p n
  obtain ⟨hregs, hsp⟩ := s.setSp_frame s.hl
  exact ⟨⟨encodedAs_encode (.ldRrN16 p n) rfl, encodedAs_encode .ldSpHl rfl⟩,
    completes_of_complete rfl ⟨s.readR16_writeR16_same p n, fun q hq => s.readR16_writeR16_other p q n hq, ha, hf, hpc, hctl,
      State.readByte_congr hmem⟩,
    completes_of_complete rfl ⟨rfl, hregs, rfl, hsp⟩⟩

/-- Settles O35: a word store at a16, whose halves are a quotient and a remainder of SP. -/
theorem storeOfSp : Obligations.StoreOfSp := by
  unfold Obligations.StoreOfSp
  intro a s
  rw [← hiByte_eq_ofNat, ← loByte_eq_ofNat]
  exact ⟨encodedAs_encode (.ldA16Sp a) rfl, completes_of_complete rfl
    ⟨s.readByte_writeWord a s.sp, s.keepsRegs_writeWord a s.sp⟩⟩

/-! ### SP plus a displacement -/

/-- `spadd` is the target of a relative jump with SP in the place of PC (R191, R210). -/
theorem spaddWord_toNat (sp : Word) (e : Byte) :
    ((spaddWord sp e).toNat : Int) = ((sp.toNat : Int) + e.toInt) % 65536 := relative_toNat (State.reset.setPc sp) e

theorem lowNibble_eq_mod (v : Byte) : lowNibble v = v.toNat % 16 := Nat.and_two_pow_sub_one_eq_mod v.toNat 4

/-- The four flags after they are written one by one are those written (R30). -/
theorem flagsAre_writeFlags {fl : Flags} {z n h c : Prop} (s : State) (hz : fl.z = true ↔ z) (hn : fl.n = true ↔ n)
    (hh : fl.h = true ↔ h) (hc : fl.c = true ↔ c) : FlagsAre (s.writeFlags fl) z n h c := by
  simpa [FlagsAre] using ⟨hz, hn, hh, hc⟩

/-- The flags of `spadd`: carries of the low byte of SP plus the displacement as an unsigned byte (R191). -/
theorem flagsAre_spadd (s : State) (sp : Word) (e : Byte) :
    FlagsAre (s.writeFlags (spaddFlags sp e)) False False (sp.toNat % 16 + e.toNat % 16 > 15)
      (sp.toNat % 256 + e.toNat > 255) := by
  have h4 : (sp &&& 0xF).toNat = sp.toNat % 16 := Nat.and_two_pow_sub_one_eq_mod sp.toNat 4
  have h8 : (sp &&& 0xFF).toNat = sp.toNat % 256 := Nat.and_two_pow_sub_one_eq_mod sp.toNat 8
  apply flagsAre_writeFlags s (iff_of_false Bool.false_ne_true id) (iff_of_false Bool.false_ne_true id)
  · simp only [spaddFlags, h4, lowNibble_eq_mod, decide_eq_true_eq]
  · simp only [spaddFlags, h8, decide_eq_true_eq]

/-- Settles O34: the signed sum goes to HL or SP, the unsigned carries to F. -/
theorem stackPointerPlusDisplacement : Obligations.StackPointerPlusDisplacement := by
  unfold Obligations.StackPointerPlusDisplacement
  intro e s
  have hhl : (((s.setHl (spaddWord s.sp e)).getWord .hl).toNat : Int) = ((s.sp.toNat : Int) + e.toInt) % 65536 := by
    rw [State.getWord_setHl, spaddWord_toNat]
  obtain ⟨hregs, -, hq⟩ := s.keepsRegs_setHl (spaddWord s.sp e)
  exact ⟨⟨encodedAs_encode (.ldHlSpE8 e) rfl, encodedAs_encode (.addSpE8 e) rfl⟩,
    completes_of_complete rfl ⟨hhl, flagsAre_spadd _ s.sp e, State.lowBitsKept_writeFlags _ _, hregs, hq,
      fun _ => rfl⟩,
    completes_of_complete rfl ⟨spaddWord_toNat s.sp e, flagsAre_spadd _ s.sp e, State.lowBitsKept_writeFlags _ _,
      s.setSp_frame (spaddWord s.sp e)⟩⟩

end Sys2Proof.Machine
end

section
/-! SUPPORT. Increment and decrement (41_incdec.md R160 to R167): the values and flags of `inc8` and `dec8`, what an operation
that writes a result and its flags leaves, then the three statements from these. -/

namespace Sys2Proof.Machine

/-! ### One up and one down, as numbers -/

/-- One less is 2^n - 1 more. -/
theorem sub_one_toNat {n : Nat} (hn : 1 < 2 ^ n) (w : BitVec n) : (w - 1).toNat = (w.toNat + (2 ^ n - 1)) % 2 ^ n := by
  have h1 : (1 : BitVec n).toNat = 1 := Nat.mod_eq_of_lt hn
  rw [BitVec.toNat_sub, h1, Nat.add_comm]

theorem inc8_val_toNat (v : Byte) (c : Bool) : (inc8 v c).val.toNat = (v.toNat + 1) % 256 := BitVec.toNat_add v 1

theorem dec8_val_toNat (v : Byte) (c : Bool) : (dec8 v c).val.toNat = (v.toNat + 255) % 256 := sub_one_toNat (by decide) v

theorem inc8_val_eq_ofNat (v : Byte) (c : Bool) : (inc8 v c).val = BitVec.ofNat 8 (v.toNat + 1) :=
  BitVec.eq_of_toNat_eq (inc8_val_toNat v c)

theorem dec8_val_eq_ofNat (v : Byte) (c : Bool) : (dec8 v c).val = BitVec.ofNat 8 (v.toNat + 255) :=
  BitVec.eq_of_toNat_eq (dec8_val_toNat v c)

/-- The result of INC is zero for 0xFF alone. -/
theorem inc8_val_eq_zero_iff (v : Byte) (c : Bool) : (inc8 v c).val = 0 ↔ v.toNat = 255 := by
  have hv : v.toNat < 256 := v.isLt
  rw [← BitVec.toNat_inj, inc8_val_toNat, show (0 : Byte).toNat = 0 from rfl]
  omega

/-- The result of DEC is zero for 1 alone. -/
theorem dec8_val_eq_zero_iff (v : Byte) (c : Bool) : (dec8 v c).val = 0 ↔ v.toNat = 1 := by
  have hv : v.toNat < 256 := v.isLt
  rw [← BitVec.toNat_inj, dec8_val_toNat, show (0 : Byte).toNat = 0 from rfl]
  omega

/-! ### The flags -/

/-- A low nibble compared with a number below 16. -/
theorem and_low_beq_iff (v k : Byte) : (v &&& 0xF == k) = true ↔ v.toNat % 16 = k.toNat := by
  rw [beq_iff_eq, ← BitVec.toNat_inj, ← lowNibble_eq_mod, lowNibble]

/-- INC: Z from the result, N clear, H out of a low nibble 0xF, C as passed in (R160). -/
theorem flagsAre_inc8 (s : State) (v : Byte) (c : Bool) :
    FlagsAre (s.writeFlags (inc8 v c).flags) ((inc8 v c).val = 0) False (v.toNat % 16 = 15) (c = true) :=
  flagsAre_writeFlags s beq_iff_eq (iff_of_false Bool.false_ne_true id) (and_low_beq_iff v 0xF) Iff.rfl

/-- DEC: Z from the result, N set, H out of a low nibble 0, C as passed in (R161). -/
theorem flagsAre_dec8 (s : State) (v : Byte) (c : Bool) :
    FlagsAre (s.writeFlags (dec8 v c).flags) ((dec8 v c).val = 0) True (v.toNat % 16 = 0) (c = true) :=
  flagsAre_writeFlags s beq_iff_eq (iff_of_true rfl trivial) (and_low_beq_iff v 0) Iff.rfl

/-! ### A result written with its flags -/

/-- The flags written after another operation: of F the low bits stay, of the rest what that operation left (R30). -/
theorem KeepsRegs.writeFlags {c : List Reg8} {s t : State} (h : KeepsRegs c s t) (fl : Flags) :
    LowBitsKept s (t.writeFlags fl) ∧ OtherRegs c s (t.writeFlags fl) ∧ Quiet s (t.writeFlags fl) := by
  obtain ⟨hregs, hf, hq⟩ := h
  have hlow : LowBitsKept s (t.writeFlags fl) := by rw [LowBitsKept, State.lowBitsKept_writeFlags, hf]
  exact ⟨hlow, fun r hr => (State.readR8_writeFlags t fl r).trans (hregs r hr), hq⟩

section

variable {i : Instr} {s : State} {m : Nat} {x : Alu} {n h c : Prop}

/-- A result goes to a register, its flags to F (R162, R164). -/
theorem completes_of_writeR8_writeFlags {r : Reg8} {k : Nat}
    (he : exec i s = complete (some m) ((s.writeR8 r x.val).writeFlags x.flags)) (hval : x.val.toNat = k)
    (hfl : FlagsAre ((s.writeR8 r x.val).writeFlags x.flags) (x.val = 0) n h c) :
    Completes i s m (fun t =>
      (t.readR8 r).toNat = k ∧ FlagsAre t (t.readR8 r = 0) n h c ∧ LowBitsKept s t ∧ OtherRegs [r] s t ∧ Quiet s t ∧
        SameMem s t) := by
  obtain ⟨hlow, hregs, hq⟩ := (s.keepsRegs_writeR8 r x.val).writeFlags x.flags
  have hr : (((s.writeR8 r x.val).writeFlags x.flags).report (some m)).readR8 r = x.val := by simp
  refine completes_of_complete he ?_
  rw [hr]
  exact ⟨hval, hfl, hlow, hregs, hq, by simp [SameMem]⟩

/-- A result goes to the byte at HL, its flags to F whether or not the store is kept (R163, R165). -/
theorem completes_of_storeAtHl_writeFlags {z : Prop}
    (he : exec i s = complete (some m) ((s.storeAtHl x.val).writeFlags x.flags))
    (hfl : FlagsAre ((s.storeAtHl x.val).writeFlags x.flags) z n h c) :
    Completes i s m (fun t => Stored s.hl x.val s t ∧ FlagsAre t z n h c ∧ LowBitsKept s t ∧ OtherRegs [] s t ∧ Quiet s t) :=
  completes_of_complete he
    ⟨s.readByte_storeAtHl x.val, hfl, (s.keepsRegs_writeByte s.hl x.val).writeFlags x.flags⟩

/-- A word goes to a pair (R166, R167). -/
theorem completes_of_writeR16 {p : Reg16} {w : Word} {k : Nat} (he : exec i s = complete (some m) (s.writeR16 p w))
    (hw : w.toNat = k) :
    Completes i s m (fun t =>
      (t.readR16 p).toNat = k ∧ (∀ o, o ≠ p → t.readR16 o = s.readR16 o) ∧ t.a = s.a ∧ t.f = s.f ∧ t.pc = s.pc ∧
        SameControl s t ∧ SameMem s t) := by
  obtain ⟨ha, hf, hpc, hmem, hctl⟩ := s.writeR16_frame p w
  have hp : ((s.writeR16 p w).readR16 p).toNat = k := by rw [State.readR16_writeR16_same, hw]
  exact completes_of_complete he ⟨hp, fun o ho => s.readR16_writeR16_other p o w ho, ha, hf, hpc, hctl,
    State.readByte_congr hmem⟩

end

/-! ### The statements -/

/-- Settles O36: `inc8` and `dec8` of a register, written back with their flags. -/
theorem incAndDecOfARegister : Obligations.IncAndDecOfARegister := by
  unfold Obligations.IncAndDecOfARegister
  intro rd s
  exact ⟨⟨encodedAs_encode (.incR rd) rfl, encodedAs_encode (.decR rd) rfl⟩,
    completes_of_writeR8_writeFlags rfl (inc8_val_toNat _ _) (flagsAre_inc8 _ _ _),
    completes_of_writeR8_writeFlags rfl (dec8_val_toNat _ _) (flagsAre_dec8 _ _ _)⟩

/-- Settles O37: `inc8` and `dec8` of the byte at HL, stored through the decoder; the flags do not ask what was stored. -/
theorem incAndDecOfTheByteAtHl : Obligations.IncAndDecOfTheByteAtHl := by
  unfold Obligations.IncAndDecOfTheByteAtHl
  intro s
  rw [← inc8_val_eq_ofNat _ s.flagC, ← inc8_val_eq_zero_iff _ s.flagC, ← dec8_val_eq_ofNat _ s.flagC,
    ← dec8_val_eq_zero_iff _ s.flagC]
  exact ⟨⟨encodedAs_encode .incHl rfl, encodedAs_encode .decHl rfl⟩,
    completes_of_storeAtHl_writeFlags rfl (flagsAre_inc8 _ _ _), completes_of_storeAtHl_writeFlags rfl (flagsAre_dec8 _ _ _)⟩

/-- Settles O38: one pair is written, one up or one down. -/
theorem incAndDecOfAPair : Obligations.IncAndDecOfAPair := by
  unfold Obligations.IncAndDecOfAPair
  intro p s
  refine ⟨⟨encodedAs_encode (.incRr p) rfl, encodedAs_encode (.decRr p) rfl⟩, ?_⟩
  simp only [List.forall_mem_cons]
  exact ⟨completes_of_writeR16 rfl (BitVec.toNat_add _ _), completes_of_writeR16 rfl (sub_one_toNat (by decide) _),
    List.forall_mem_nil _⟩

end Sys2Proof.Machine
end

section
/-! SUPPORT. Addition, subtraction and decimal adjust (42_arith.md R170 to R191): the values and flags of `add8`, `sub8` and
`daa8` as numbers, what an accumulated result leaves, then the statements of the family from these. -/

namespace Sys2Proof.Machine

/-! ### Sums and differences of bytes, as numbers -/

theorem add8_val_toNat (a b : Byte) (c : Bool) : (add8 a b c).val.toNat = (a.toNat + b.toNat + c.toNat) % 256 :=
  BitVec.toNat_ofNat _ _

theorem sub8_val_toNat (a b : Byte) (c : Bool) :
    ((sub8 a b c).val.toNat : Int) = ((a.toNat : Int) - b.toNat - c.toNat) % 256 := by
  rw [sub8, BitVec.toNat_ofInt]
  exact Int.toNat_of_nonneg (Int.emod_nonneg _ (by decide))

theorem sub8_val_eq_zero_iff (a b : Byte) (c : Bool) :
    (sub8 a b c).val = 0 ↔ ((a.toNat : Int) - b.toNat - c.toNat) % 256 = 0 := by
  rw [← sub8_val_toNat, ← BitVec.toNat_inj]
  exact Int.natCast_eq_zero.symm

theorem add8_h_iff (a b : Byte) (c : Bool) :
    (add8 a b c).flags.h = true ↔ a.toNat % 16 + b.toNat % 16 + c.toNat > 15 := by
  simp only [add8, lowNibble_eq_mod, decide_eq_true_eq]

theorem add8_c_iff (a b : Byte) (c : Bool) : (add8 a b c).flags.c = true ↔ a.toNat + b.toNat + c.toNat > 255 :=
  decide_eq_true_iff

theorem sub8_h_iff (a b : Byte) (c : Bool) :
    (sub8 a b c).flags.h = true ↔ a.toNat % 16 < b.toNat % 16 + c.toNat := by
  simp only [sub8, lowNibble_eq_mod, decide_eq_true_eq]

/-- The difference in integers is negative. -/
theorem sub8_c_iff (a b : Byte) (c : Bool) : (sub8 a b c).flags.c = true ↔ a.toNat < b.toNat + c.toNat := by
  simp only [sub8, decide_eq_true_eq]
  omega

/-! ### Half-carry by the exclusive or -/

/-- Bit 4 of an exclusive or of three bytes is the parity of their bits 4. -/
theorem xor_bit4_iff (a b r : Byte) :
    (a ^^^ b ^^^ r) &&& 0x10 ≠ 0 ↔ (a.toNat / 16 + b.toNat / 16 + r.toNat / 16) % 2 = 1 := by
  have hbit (v : Byte) : v.getLsbD 4 = decide (v.toNat / 16 % 2 = 1) := Nat.testBit_eq_decide_div_mod_eq
  have hmask (v : Byte) : v &&& 0x10 ≠ 0 ↔ v.getLsbD 4 = true := by
    rw [show (0x10 : Byte) = BitVec.twoPow 8 4 from rfl, BitVec.and_twoPow]
    cases v.getLsbD 4 <;> decide
  rw [hmask, BitVec.getLsbD_xor, BitVec.getLsbD_xor, hbit, hbit, hbit]
  grind

/-- Settles O41: bit 4 of the operands and the result has odd parity exactly when a carry or a borrow came into it. -/
theorem halfCarryMethodsAgree : Obligations.HalfCarryMethodsAgree := by
  unfold Obligations.HalfCarryMethodsAgree
  intro a b c
  have hc := c.toNat_le
  refine ⟨?_, decide_eq_true_iff, ?_, decide_eq_true_iff, sub8_c_iff a b c, sub8_val_toNat a b c⟩
  · rw [add8_h_iff, xor_bit4_iff, add8_val_toNat]
    omega
  · have hval := sub8_val_toNat a b c
    rw [sub8_h_iff, xor_bit4_iff]
    omega

/-! ### Results in A -/

/-- A result in A with its flags: of F the low bits stay, the rest of the state is untouched (R30, R174). -/
theorem State.accumulate_frame (s : State) (x : Alu) :
    LowBitsKept s (s.accumulate x) ∧ OtherRegs [.a] s (s.accumulate x) ∧ Quiet s (s.accumulate x) ∧
      SameMem s (s.accumulate x) := by
  obtain ⟨hlow, hregs, hq⟩ := (s.keepsRegs_writeR8 .a x.val).writeFlags x.flags
  exact ⟨hlow, hregs, hq, fun _ => rfl⟩

/-- Flags alone, as CP writes them (R30, R204). -/
theorem State.writeFlags_frame (s : State) (fl : Flags) {c : List Reg8} :
    LowBitsKept s (s.writeFlags fl) ∧ OtherRegs c s (s.writeFlags fl) ∧ Quiet s (s.writeFlags fl) ∧
      SameMem s (s.writeFlags fl) :=
  ⟨s.lowBitsKept_writeFlags fl, fun r _ => s.readR8_writeFlags fl r, ⟨rfl, rfl, rfl, rfl, rfl, rfl, rfl⟩, fun _ => rfl⟩

/-- The flags of an addition (R170, R171, R174). -/
theorem flagsAre_add8 (s : State) (a b : Byte) (c : Bool) :
    FlagsAre (s.writeFlags (add8 a b c).flags) ((add8 a b c).val = 0) False
      (a.toNat % 16 + b.toNat % 16 + c.toNat > 15) (a.toNat + b.toNat + c.toNat > 255) :=
  flagsAre_writeFlags s beq_iff_eq (iff_of_false Bool.false_ne_true id) (add8_h_iff a b c) (add8_c_iff a b c)

/-- The flags of a subtraction (R172, R175). -/
theorem flagsAre_sub8 (s : State) (a b : Byte) (c : Bool) :
    FlagsAre (s.writeFlags (sub8 a b c).flags) (((a.toNat : Int) - b.toNat - c.toNat) % 256 = 0) True
      (a.toNat % 16 < b.toNat % 16 + c.toNat) (a.toNat < b.toNat + c.toNat) :=
  flagsAre_writeFlags s (beq_iff_eq.trans (sub8_val_eq_zero_iff a b c)) (iff_of_true rfl trivial) (sub8_h_iff a b c)
    (sub8_c_iff a b c)

section

variable {i : Instr} {s : State} {m : Nat} {v : Byte} {c : Bool}

/-- The six additions (R176 to R181). -/
theorem completes_of_add8 (he : exec i s = complete (some m) (s.accumulate (add8 s.a v c))) :
    Completes i s m (fun t =>
      t.a.toNat = (s.a.toNat + v.toNat + c.toNat) % 256 ∧
        FlagsAre t (t.a = 0) False (s.a.toNat % 16 + v.toNat % 16 + c.toNat > 15) (s.a.toNat + v.toNat + c.toNat > 255) ∧
        LowBitsKept s t ∧ OtherRegs [.a] s t ∧ Quiet s t ∧ SameMem s t) :=
  completes_of_writeR8_writeFlags (r := .a) he (add8_val_toNat s.a v c) (flagsAre_add8 _ s.a v c)

/-- The nine subtractions: the difference is kept, or its flags alone (R182 to R187, R204 to R206). -/
theorem completes_of_sub8 {keep : Bool}
    (he : exec i s = complete (some m)
      (if keep then s.accumulate (sub8 s.a v c) else s.writeFlags (sub8 s.a v c).flags)) :
    Completes i s m (fun t =>
      (if keep then (t.a.toNat : Int) = ((s.a.toNat : Int) - v.toNat - c.toNat) % 256 else t.a = s.a) ∧
        FlagsAre t (((s.a.toNat : Int) - v.toNat - c.toNat) % 256 = 0) True (s.a.toNat % 16 < v.toNat % 16 + c.toNat)
          (s.a.toNat < v.toNat + c.toNat) ∧
        LowBitsKept s t ∧ OtherRegs [.a] s t ∧ Quiet s t ∧ SameMem s t) := by
  cases keep with
  | true => exact completes_of_complete he ⟨sub8_val_toNat s.a v c, flagsAre_sub8 _ s.a v c, s.accumulate_frame _⟩
  | false => exact completes_of_complete he ⟨rfl, flagsAre_sub8 s s.a v c, s.writeFlags_frame _⟩

end

/-- Settles O39: each form accumulates `add8` of its operand. -/
theorem addAndAdcIntoA : Obligations.AddAndAdcIntoA := by
  unfold Obligations.AddAndAdcIntoA
  intro rs n s
  refine ⟨⟨encodedAs_encode (.addAR rs) rfl, encodedAs_encode .addAHl rfl, encodedAs_encode (.addAN8 n) rfl,
    encodedAs_encode (.adcAR rs) rfl, encodedAs_encode .adcAHl rfl, encodedAs_encode (.adcAN8 n) rfl⟩, ?_⟩
  simp only [List.forall_mem_cons]
  exact ⟨completes_of_add8 rfl, completes_of_add8 rfl, completes_of_add8 rfl, completes_of_add8 rfl, completes_of_add8 rfl,
    completes_of_add8 rfl, List.forall_mem_nil _⟩

/-- Settles O40: each form takes `sub8` of its operand, CP its flags alone. -/
theorem subSbcAndCp : Obligations.SubSbcAndCp := by
  unfold Obligations.SubSbcAndCp
  intro rs n s
  refine ⟨⟨encodedAs_encode (.subR rs) rfl, encodedAs_encode .subHl rfl, encodedAs_encode (.subN8 n) rfl,
    encodedAs_encode (.sbcAR rs) rfl, encodedAs_encode .sbcAHl rfl, encodedAs_encode (.sbcAN8 n) rfl,
    encodedAs_encode (.cpR rs) rfl, encodedAs_encode .cpHl rfl, encodedAs_encode (.cpN8 n) rfl⟩, ?_⟩
  iterate 9 rw [List.forall_mem_cons]
  exact ⟨completes_of_sub8 rfl, completes_of_sub8 rfl, completes_of_sub8 rfl, completes_of_sub8 rfl, completes_of_sub8 rfl,
    completes_of_sub8 rfl, completes_of_sub8 rfl, completes_of_sub8 rfl, completes_of_sub8 rfl, List.forall_mem_nil _⟩

/-! ### Sums of words -/

/-- The flags of `ADD HL,rr`: carries out of bits 11 and 15, Z as passed in (R173, R188). -/
theorem flagsAre_addHl (s : State) (z : Bool) (a b : Word) :
    FlagsAre (s.writeFlags (addHlFlags z a b)) (z = true) False (a.toNat % 4096 + b.toNat % 4096 > 4095)
      (a.toNat + b.toNat > 65535) := by
  have h12 (w : Word) : (w &&& 0xFFF).toNat = w.toNat % 4096 := Nat.and_two_pow_sub_one_eq_mod w.toNat 12
  apply flagsAre_writeFlags s Iff.rfl (iff_of_false Bool.false_ne_true id)
  · simp only [addHlFlags, h12, decide_eq_true_eq]
  · simp only [addHlFlags, decide_eq_true_eq]

/-- Settles O42: the sum goes to HL, the carries to F. -/
theorem addIntoHl : Obligations.AddIntoHl := by
  unfold Obligations.AddIntoHl
  intro p s
  have hhl : ((s.setHl (s.hl + s.readR16 p)).getWord .hl).toNat = (s.hl.toNat + (s.readR16 p).toNat) % 65536 := by
    rw [State.getWord_setHl, BitVec.toNat_add]
  obtain ⟨hlow, hregs, hq⟩ := (s.keepsRegs_setHl (s.hl + s.readR16 p)).writeFlags (addHlFlags s.flagZ s.hl (s.readR16 p))
  exact ⟨encodedAs_encode (.addHlRr p) rfl,
    completes_of_complete rfl ⟨hhl, flagsAre_addHl _ s.flagZ s.hl (s.readR16 p), hlow, hregs, hq, fun _ => rfl⟩⟩

/-! ### Decimal adjust -/

/-- After a subtraction, as numbers (R190). -/
theorem daaVal_sub_toNat (a : Byte) (h c : Bool) :
    ((daaVal a true h c).toNat : Int) =
      ((a.toNat : Int) - (if c then 0x60 else 0) - (if h then 0x06 else 0)) % 256 := by
  cases h <;> cases c <;> simp only [daaVal, if_true, Bool.false_eq_true, if_false] <;> bv_omega

/-- After an addition, as numbers (R190). -/
theorem daaVal_add_toNat (a : Byte) (h c : Bool) :
    (daaVal a false h c).toNat =
      (a.toNat + (if c ∨ a.toNat > 0x99 then 0x60 else 0) + (if h ∨ a.toNat % 16 > 9 then 0x06 else 0)) % 256 := by
  simp only [daaVal, daaHigh, lowNibble_eq_mod, Bool.false_eq_true, if_false, Bool.or_eq_true, decide_eq_true_eq]
  split_ifs <;> bv_omega

/-- The carry of DAA: kept, or set by the high adjustment after an addition (R190). -/
theorem daa8_c_iff (a : Byte) (n h c : Bool) :
    (daa8 a n h c).flags.c = true ↔ c = true ∨ (n = false ∧ a.toNat > 0x99) := by
  cases n <;> simp [daa8, daaHigh]

/-- The flags of DAA (R190). -/
theorem flagsAre_daa8 (s : State) (a : Byte) (n h c : Bool) :
    FlagsAre (s.writeFlags (daa8 a n h c).flags) ((daa8 a n h c).val = 0) (n = true) False
      (c = true ∨ (n = false ∧ a.toNat > 0x99)) :=
  flagsAre_writeFlags s beq_iff_eq Iff.rfl (iff_of_false Bool.false_ne_true id) (daa8_c_iff a n h c)

/-- Settles O43: A gets `daa8` of itself and its flags, by the branch N selects. -/
theorem decimalAdjustFollowsTheAlgorithm : Obligations.DecimalAdjustFollowsTheAlgorithm := by
  unfold Obligations.DecimalAdjustFollowsTheAlgorithm
  intro s
  refine ⟨encodedAs_encode .daa rfl,
    completes_of_complete rfl ⟨?_, flagsAre_daa8 _ s.a s.flagN s.flagH s.flagC, s.accumulate_frame _⟩⟩
  show if s.flagN then ((daaVal s.a s.flagN s.flagH s.flagC).toNat : Int) = _
    else (daaVal s.a s.flagN s.flagH s.flagC).toNat = _
  cases s.flagN with
  | true => exact daaVal_sub_toNat s.a s.flagH s.flagC
  | false => exact daaVal_add_toNat s.a s.flagH s.flagC

/-! ### Packed decimal -/

/-- A packed byte exceeds its number by six for each ten. -/
theorem bcd_toNat {n : Nat} (hn : n < 100) : (bcd n).toNat = n + 6 * (n / 10) := by
  rw [bcd, BitVec.toNat_ofNat]
  omega

/-- DAA after an instruction that accumulates a result adjusts that result by its flags. -/
theorem exec_daa_of_accumulate {i : Instr} {s : State} {m : Nat} {x : Alu} {v : Byte} {p : Prop}
    (he : exec i s = complete (some m) (s.accumulate x)) (hv : (daa8 x.val x.flags.n x.flags.h x.flags.c).val = v)
    (hc : (daa8 x.val x.flags.n x.flags.h x.flags.c).flags.c = true ↔ p) :
    ∃ t u, exec i s = .next t ∧ exec .daa t = .next u ∧ u.a = v ∧ (u.flagC = true ↔ p) := by
  refine ⟨_, _, he, rfl, ?_, ?_⟩
  · simpa [State.accumulate] using hv
  · simpa [State.accumulate] using hc

section

variable {x y : Nat} (hx : x < 100) (hy : y < 100)

include hx hy

/-- The high adjustment is made after a sum exactly when the decimal sum has a third digit: the packed sum, before it is cut
to a byte, exceeds 0x99 then. -/
theorem daaHigh_add8_bcd_iff :
    (add8 (bcd x) (bcd y) false).flags.c = true ∨ (add8 (bcd x) (bcd y) false).val.toNat > 0x99 ↔ x + y ≥ 100 := by
  rw [add8_c_iff, add8_val_toNat, bcd_toNat hx, bcd_toNat hy, Bool.toNat_false]
  have hsum : x + 6 * (x / 10) + (y + 6 * (y / 10)) + 0 > 0x99 ↔ x + y ≥ 100 := by omega
  omega

/-- The low adjustment is made after a sum exactly when the low digits carry. -/
theorem daaLow_add8_bcd_iff :
    (add8 (bcd x) (bcd y) false).flags.h = true ∨ (add8 (bcd x) (bcd y) false).val.toNat % 16 > 9 ↔
      x % 10 + y % 10 ≥ 10 := by
  rw [add8_h_iff, add8_val_toNat, bcd_toNat hx, bcd_toNat hy, Bool.toNat_false]
  omega

/-- The decimal difference borrows exactly when the packed one does. -/
theorem sub8_bcd_c_iff : (sub8 (bcd x) (bcd y) false).flags.c = true ↔ x < y := by
  rw [sub8_c_iff, bcd_toNat hx, bcd_toNat hy, Bool.toNat_false]
  omega

/-- The low digits borrow exactly when the low nibbles do. -/
theorem sub8_bcd_h_iff : (sub8 (bcd x) (bcd y) false).flags.h = true ↔ x % 10 < y % 10 := by
  rw [sub8_h_iff, bcd_toNat hx, bcd_toNat hy, Bool.toNat_false]
  omega

/-- The sum of two packed bytes, adjusted (R178, R190): its tens digit is the sum of the tens digits and the low carry, less
ten when a third digit is carried out. -/
theorem daaVal_add8_bcd :
    daaVal (add8 (bcd x) (bcd y) false).val false (add8 (bcd x) (bcd y) false).flags.h
      (add8 (bcd x) (bcd y) false).flags.c = bcd ((x + y) % 100) := by
  have htens : (x + y) % 100 / 10 + (if x + y ≥ 100 then 10 else 0) =
      x / 10 + y / 10 + (if x % 10 + y % 10 ≥ 10 then 1 else 0) := by
    split_ifs <;> omega
  rw [← BitVec.toNat_inj, daaVal_add_toNat, bcd_toNat (Nat.mod_lt _ (by decide))]
  simp only [daaHigh_add8_bcd_iff hx hy, daaLow_add8_bcd_iff hx hy]
  rw [add8_val_toNat, bcd_toNat hx, bcd_toNat hy, Bool.toNat_false]
  split_ifs at htens ⊢ <;> omega

/-- The difference of two packed bytes, adjusted (R184, R190): its tens digit is the difference of the tens digits less the low
borrow, and ten more when the whole difference borrows. -/
theorem daaVal_sub8_bcd :
    daaVal (sub8 (bcd x) (bcd y) false).val true (sub8 (bcd x) (bcd y) false).flags.h
      (sub8 (bcd x) (bcd y) false).flags.c = bcd ((x + 100 - y) % 100) := by
  have htens : (x + 100 - y) % 100 / 10 + y / 10 + (if x % 10 < y % 10 then 1 else 0) =
      x / 10 + (if x < y then 10 else 0) := by
    split_ifs <;> omega
  rw [← BitVec.toNat_inj, ← Int.ofNat_inj, daaVal_sub_toNat, sub8_val_toNat, bcd_toNat (Nat.mod_lt _ (by decide)),
    bcd_toNat hx, bcd_toNat hy, Bool.toNat_false]
  simp only [sub8_bcd_c_iff hx hy, sub8_bcd_h_iff hx hy]
  split_ifs at htens ⊢ <;> omega

end

/-- Settles O44: DAA adjusts what ADD and SUB leave, whose flags say where the digits carried or borrowed. -/
theorem decimalAdjustGivesDecimalSumsAndDifferences : Obligations.DecimalAdjustGivesDecimalSumsAndDifferences := by
  unfold Obligations.DecimalAdjustGivesDecimalSumsAndDifferences
  rintro ⟨x, hx⟩ ⟨y, hy⟩ s
  refine ⟨exec_daa_of_accumulate rfl (daaVal_add8_bcd hx hy) ?_, exec_daa_of_accumulate rfl (daaVal_sub8_bcd hx hy) ?_⟩
  · exact (daa8_c_iff _ _ _ _).trans ((or_congr_right (and_iff_right rfl)).trans (daaHigh_add8_bcd_iff hx hy))
  · exact sub8_bcd_c_iff hx hy

end Sys2Proof.Machine
end

section
/-! SUPPORT. Logic, complement and the carry instructions (43_logic.md R195 to R209): what assigning all of F reads and leaves,
one law for a result combined into A bit by bit, then the two statements from these. -/

namespace Sys2Proof.Machine

/-! ### All of F assigned -/

/-- The four flags after F is assigned are those assigned (R7). -/
theorem flagsAre_assignF {fl : Flags} {z n h c : Prop} (s : State) (hz : fl.z = true ↔ z) (hn : fl.n = true ↔ n)
    (hh : fl.h = true ↔ h) (hc : fl.c = true ↔ c) : FlagsAre (s.assignF fl) z n h c := by
  simpa [FlagsAre] using ⟨hz, hn, hh, hc⟩

/-- F assigned after another operation: the low bits are zero, of the rest stays what that operation left (R7). -/
theorem KeepsRegs.assignF {c : List Reg8} {s t : State} (h : KeepsRegs c s t) (fl : Flags) :
    (t.assignF fl).LowNibbleZero ∧ OtherRegs c s (t.assignF fl) ∧ Quiet s (t.assignF fl) := by
  obtain ⟨hregs, -, hq⟩ := h
  exact ⟨t.lowNibbleZero_assignF fl, fun r hr => (State.readR8_assignF t fl r).trans (hregs r hr), hq⟩

/-! ### AND, XOR and OR -/

/-- Each bit of A combines its old value with the bit of `v`; of the flags Z tells a zero result and H is as `h` says; F has no
other bit set, and nothing else but the output has changed. -/
def CombinedIntoA (op : Bool → Bool → Bool) (v : Byte) (h : Prop) (s t : State) : Prop :=
  (∀ j : Fin 8, t.a.getLsbD j = op (s.a.getLsbD j) (v.getLsbD j)) ∧ FlagsAre t (t.a = 0) False h False ∧
    t.LowNibbleZero ∧ OtherRegs [.a] s t ∧ Quiet s t ∧ SameMem s t

section

variable {i : Instr} {s : State} {m : Nat} {v : Byte}

/-- A result put into A, and F assigned the flags that come with it (R195, R198, R201). -/
theorem completes_of_accumulateLogic {x : Alu} {op : Bool → Bool → Bool} {b : Bool} {h : Prop}
    (he : exec i s = complete (some m) (s.accumulateLogic x))
    (hbits : ∀ j : Fin 8, x.val.getLsbD j = op (s.a.getLsbD j) (v.getLsbD j))
    (hfl : x.flags = ⟨x.val == 0, false, b, false⟩) (hb : b = true ↔ h) :
    Completes i s m (CombinedIntoA op v h s) := by
  have hflags : FlagsAre (s.accumulateLogic x) (x.val = 0) False h False := by
    rw [State.accumulateLogic, hfl]
    exact flagsAre_assignF _ beq_iff_eq (iff_of_false Bool.false_ne_true id) hb (iff_of_false Bool.false_ne_true id)
  obtain ⟨hlow, hregs, hq⟩ := (s.keepsRegs_writeR8 .a x.val).assignF x.flags
  exact completes_of_complete he ⟨hbits, hflags, hlow, hregs, hq, fun _ => rfl⟩

/-- The three forms of AND (R195 to R197). -/
theorem completes_of_and8 (he : exec i s = complete (some m) (s.accumulateLogic (and8 s.a v))) :
    Completes i s m (CombinedIntoA and v True s) :=
  completes_of_accumulateLogic he (fun _ => BitVec.getLsbD_and) rfl (iff_of_true rfl trivial)

/-- The three forms of XOR (R198 to R200). -/
theorem completes_of_xor8 (he : exec i s = complete (some m) (s.accumulateLogic (xor8 s.a v))) :
    Completes i s m (CombinedIntoA bne v False s) :=
  completes_of_accumulateLogic he (fun _ => BitVec.getLsbD_xor) rfl (iff_of_false Bool.false_ne_true id)

/-- The three forms of OR (R201 to R203). -/
theorem completes_of_or8 (he : exec i s = complete (some m) (s.accumulateLogic (or8 s.a v))) :
    Completes i s m (CombinedIntoA or v False s) :=
  completes_of_accumulateLogic he (fun _ => BitVec.getLsbD_or) rfl (iff_of_false Bool.false_ne_true id)

end

/-- Settles O45: each form accumulates `and8`, `xor8` or `or8` of its operand. -/
theorem andXorOrIntoA : Obligations.AndXorOrIntoA := by
  unfold Obligations.AndXorOrIntoA
  intro rs n s
  simp only [List.forall_mem_cons]
  exact ⟨⟨encodedAs_encode (.andR rs) rfl, encodedAs_encode .andHl rfl, encodedAs_encode (.andN8 n) rfl,
      encodedAs_encode (.xorR rs) rfl, encodedAs_encode .xorHl rfl, encodedAs_encode (.xorN8 n) rfl,
      encodedAs_encode (.orR rs) rfl, encodedAs_encode .orHl rfl, encodedAs_encode (.orN8 n) rfl⟩,
    ⟨completes_of_and8 rfl, completes_of_and8 rfl, completes_of_and8 rfl, List.forall_mem_nil _⟩,
    ⟨completes_of_xor8 rfl, completes_of_xor8 rfl, completes_of_xor8 rfl, List.forall_mem_nil _⟩,
    completes_of_or8 rfl, completes_of_or8 rfl, completes_of_or8 rfl, List.forall_mem_nil _⟩

/-! ### CPL, SCF and CCF -/

/-- Z kept, N and H cleared, C written, as SCF and CCF do (R208, R209). -/
theorem completes_of_writeCarry {i : Instr} {s : State} {m : Nat} {b : Bool} {c : Prop}
    (he : exec i s = complete (some m) (s.writeFlags ⟨s.flagZ, false, false, b⟩)) (hb : b = true ↔ c) :
    Completes i s m (fun t =>
      FlagsAre t (s.flagZ = true) False False c ∧ LowBitsKept s t ∧ OtherRegs [] s t ∧ Quiet s t ∧ SameMem s t) :=
  completes_of_complete he
    ⟨flagsAre_writeFlags s Iff.rfl (iff_of_false Bool.false_ne_true id) (iff_of_false Bool.false_ne_true id) hb,
      s.writeFlags_frame _⟩

/-- Settles O46: CPL writes A and the flags, SCF and CCF the flags alone. -/
theorem complementAndCarryInstructions : Obligations.ComplementAndCarryInstructions := by
  unfold Obligations.ComplementAndCarryInstructions
  intro s
  have hflags : FlagsAre ((s.setA (~~~s.a)).writeFlags ⟨s.flagZ, true, true, s.flagC⟩) (s.flagZ = true) True True
      (s.flagC = true) :=
    flagsAre_writeFlags _ Iff.rfl (iff_of_true rfl trivial) (iff_of_true rfl trivial) Iff.rfl
  exact ⟨⟨encodedAs_encode .cpl rfl, encodedAs_encode .scf rfl, encodedAs_encode .ccf rfl⟩,
    completes_of_complete rfl ⟨rfl, hflags, s.accumulate_frame ⟨~~~s.a, ⟨s.flagZ, true, true, s.flagC⟩⟩⟩,
    completes_of_writeCarry rfl (iff_of_true rfl trivial),
    completes_of_writeCarry rfl (.of_eq (Bool.not_eq_true' _))⟩

end Sys2Proof.Machine
end

section
/-! SUPPORT. The stack (45_call_ret_stack.md R220 to R231): a word pushed and popped comes back; what a push, a call, a return and
a pop write and what they leave; then the five statements of the family from these. -/

namespace Sys2Proof.Machine

/-! ### A push, then a pop -/

/-- A store reaches its own cell or the one 0x2000 lower, never the next one up (20_memory.md R61). -/
theorem storeHits_next (a : Word) : storeHits a (a + 1) = false := by
  have hself : a + 1 ≠ a := by bv_omega
  have hecho : a + 1 ≠ a - 0x2000 := by bv_omega
  rw [storeHits, beq_eq_false_iff_ne.mpr hself, beq_eq_false_iff_ne.mpr hecho]
  simp

namespace State

/-- The word on top of the stack after a push whose two bytes were both stored (R221). -/
theorem popWord_push16 (s : State) (v : Word) (hhi : ¬ (0xFEA0 ≤ s.sp - 1 ∧ s.sp - 1 < 0xFEFF))
    (hlo : ¬ (0xFEA0 ≤ s.sp - 2 ∧ s.sp - 2 < 0xFEFF)) : (s.push16 v).popWord = v := by
  have hsp : s.sp - 2 + 1 = s.sp - 1 := by bv_omega
  have hnext : storeHits (s.sp - 2) (s.sp - 1) = false := hsp ▸ storeHits_next (s.sp - 2)
  have hlow : (s.push16 v).readByte (s.sp - 2) = loByte v := by
    rw [readByte_push16, cellAfterPush, if_pos (storeHits_self _ hlo)]
  have hhigh : (s.push16 v).readByte (s.sp - 1) = hiByte v := by
    rw [readByte_push16, cellAfterPush, hnext, if_neg Bool.false_ne_true, if_pos (storeHits_self _ hhi)]
  rw [popWord, push16_sp, hsp, hhigh, hlow, mkWord_hiByte_loByte]

end State

/-- Settles O18: the two bytes read are the two stored. -/
theorem pushThenPopGivesTheWordBack : Obligations.PushThenPopGivesTheWordBack := by
  unfold Obligations.PushThenPopGivesTheWordBack
  exact fun s v => ⟨⟨s.popWord_toNat, rfl⟩, fun hhi hlo => ⟨s.popWord_push16 v hhi hlo, BitVec.sub_add_cancel s.sp 2⟩⟩

/-! ### Pushes, calls and restarts -/

/-- The word `v` lies on the stack, high byte at SP-1, low byte at SP-2; PC holds `pc`; no register, flag or control state has
changed. -/
def Pushed (v pc : Word) (s t : State) : Prop :=
  (∀ x, t.readByte x = s.cellAfterPush v x) ∧ t.sp = s.sp - 2 ∧ t.pc = pc ∧ OtherRegs [] s t ∧ t.f = s.f ∧
    SameControl s t

namespace State

/-- A push keeps PC (R220). -/
theorem pushed_push16 (s : State) (v : Word) : Pushed v s.pc s (s.push16 v) :=
  ⟨s.readByte_push16 v, rfl, s.push16_pc v, fun r _ => s.readR8_push16 v r, s.push16_f v, by simp [SameControl]⟩

/-- A call pushes the old PC (R222, R227). -/
theorem pushed_callTo (s : State) (target : Word) : Pushed s.pc target s (s.callTo target) := by
  obtain ⟨hmem, hsp, -, hkept⟩ := s.pushed_push16 s.pc
  exact ⟨hmem, hsp, rfl, hkept⟩

end State

section

variable {i : Instr} {s : State} {m : Nat}

/-- An instruction whose condition fails changes nothing but the output (R223, R225). -/
theorem completes_unchanged (he : exec i s = complete (some m) s) :
    Completes i s m (fun t => OtherRegs [] s t ∧ t.f = s.f ∧ Quiet s t ∧ SameMem s t) :=
  completes_of_complete he
    ⟨fun r _ => s.readR8_report (some m) r, rfl, ⟨rfl, rfl, rfl, rfl, rfl, rfl, rfl⟩, fun _ => rfl⟩

/-- A conditional call or return, in its two branches (R223, R225). -/
theorem completes_of_ite {c : Bool} {k : Nat} {u : State} {p : State → Prop}
    (he : exec i s = if c then complete (some m) u else complete (some k) s) (hp : p (u.report (some m))) :
    if c then Completes i s m p
    else Completes i s k (fun t => OtherRegs [] s t ∧ t.f = s.f ∧ Quiet s t ∧ SameMem s t) := by
  cases c with
  | true => exact completes_of_complete he hp
  | false => exact completes_unchanged he

end

/-- Settles O48: each call, if taken, pushes PC and sets it. -/
theorem callsAndRestart : Obligations.CallsAndRestart := by
  unfold Obligations.CallsAndRestart
  intro cc a k s
  simp only [List.forall_mem_cons]
  exact ⟨⟨encodedAs_encode (.callA16 a) rfl, encodedAs_encode (.callCcA16 cc a) rfl,
      encodedAs_encode (.rst k.val) (decide_eq_true k.isLt)⟩,
    ⟨completes_of_complete rfl (s.pushed_callTo a), completes_of_complete rfl (s.pushed_callTo (rstTarget k)),
      List.forall_mem_nil _⟩,
    completes_of_ite rfl (s.pushed_callTo a)⟩

/-- Settles O50: each pair is pushed, its halves a quotient and a remainder. -/
theorem pushesOfPairs : Obligations.PushesOfPairs := by
  unfold Obligations.PushesOfPairs
  intro p s
  simp only [List.forall_mem_cons, ← hiByte_eq_ofNat, ← loByte_eq_ofNat]
  exact ⟨⟨encodedAs_encode (.pushRr p) rfl, encodedAs_encode .pushAf rfl⟩,
    completes_of_complete rfl (s.pushed_push16 (s.readStackPair p)), completes_of_complete rfl (s.pushed_push16 s.af),
    List.forall_mem_nil _⟩

/-! ### Returns -/

/-- PC is the word that was on the stack, SP is past it, IME holds `b`, and nothing else but the output has changed. -/
def Returned (b : Bool) (s t : State) : Prop :=
  t.pc.toNat = 256 * (s.readByte (s.sp + 1)).toNat + (s.readByte s.sp).toNat ∧ t.sp = s.sp + 2 ∧ t.ime = b ∧
    OtherRegs [] s t ∧ t.f = s.f ∧ SameControl { s with ime := b } t ∧ SameMem s t

/-- PC popped and IME written, as RETI does; RET writes IME back (R224, R226). -/
theorem State.returned_popPc_setIme (s : State) (b : Bool) : Returned b s (s.popPc.setIme b) :=
  ⟨s.popWord_toNat, rfl, rfl, fun r _ => s.readR8_popPc r, rfl, ⟨rfl, rfl, rfl, rfl, rfl⟩, fun _ => rfl⟩

/-- Settles O49: each return, if taken, pops PC; RETI sets IME too. -/
theorem returns : Obligations.Returns := by
  unfold Obligations.Returns
  intro cc s
  obtain ⟨hpc, hsp, -, hkept⟩ := s.returned_popPc_setIme s.ime
  simp only [List.forall_mem_cons]
  exact ⟨⟨encodedAs_encode .ret rfl, encodedAs_encode (.retCc cc) rfl, encodedAs_encode .reti rfl⟩,
    ⟨completes_of_complete rfl (s.returned_popPc_setIme s.ime), completes_of_complete rfl (s.returned_popPc_setIme true),
      List.forall_mem_nil _⟩,
    completes_of_ite rfl ⟨hpc, hsp, hkept⟩⟩

/-! ### Pops -/

/-- The stack pairs are three distinct Register Pairs (30_encoding.md R96). -/
theorem pairOfStack_injective : Function.Injective pairOfStack := by
  intro p q h
  cases p <;> cases q <;> cases h <;> rfl

/-- Masking a word masks its halves (R231). -/
theorem hiByte_and (v w : Word) : hiByte (v &&& w) = hiByte v &&& hiByte w := BitVec.extractLsb'_and

theorem loByte_and (v w : Word) : loByte (v &&& w) = loByte v &&& loByte w := BitVec.extractLsb'_and

namespace State

/-- A stack pair written and read back (10_state.md R25). -/
@[simp] theorem readStackPair_writeStackPair_same (s : State) (p : StackPair) (w : Word) :
    (s.writeStackPair p w).readStackPair p = w := getWord_setWord_same s _ w

/-- Another stack pair is untouched (10_state.md R20). -/
theorem readStackPair_writeStackPair_other (s : State) (p q : StackPair) (w : Word) (h : q ≠ p) :
    (s.writeStackPair p w).readStackPair q = s.readStackPair q :=
  getWord_setWord_other s _ _ w fun hpair => h (pairOfStack_injective hpair)

/-- A pop leaves the pairs until they are written (R221). -/
@[simp] theorem readStackPair_popped (s : State) (p : StackPair) : s.popped.readStackPair p = s.readStackPair p := by
  cases p <;> rfl

/-- Of the 8-bit registers a write of AF changes A alone (10_state.md R21). -/
theorem otherRegs_setWord_af (s : State) (w : Word) : OtherRegs [.a] s (s.setWord .af w) := by
  intro r hr
  cases r with
  | a => simp at hr
  | _ => rfl

/-- The mask of POP AF keeps the high byte (R231). -/
theorem hiByte_popWord_and_mask (s : State) : hiByte (s.popWord &&& 0xFFF0) = s.readByte (s.sp + 1) := by
  rw [hiByte_and, popWord, hiByte_mkWord, show hiByte 0xFFF0 = BitVec.allOnes 8 from rfl, BitVec.and_allOnes]

/-- The mask of POP AF keeps the high nibble of the low byte (R231). -/
theorem loByte_popWord_and_mask (s : State) : loByte (s.popWord &&& 0xFFF0) = s.readByte s.sp &&& 0xF0 := by
  rw [loByte_and, popWord, loByte_mkWord, show loByte 0xFFF0 = 0xF0 from rfl]

end State

/-- Settles O51: the popped word goes to the pair; for AF its low nibble is dropped first. -/
theorem popsOfPairs : Obligations.PopsOfPairs := by
  unfold Obligations.PopsOfPairs
  intro p s
  obtain ⟨ha, hf, hpc, hsp, hmem, hctl⟩ := s.popped.writeStackPair_frame p s.popWord
  have hpair : ((s.popped.writeStackPair p s.popWord).readStackPair p).toNat =
      256 * (s.readByte (s.sp + 1)).toNat + (s.readByte s.sp).toNat := by
    rw [State.readStackPair_writeStackPair_same, State.popWord_toNat]
  have hother : ∀ q, q ≠ p → (s.popped.writeStackPair p s.popWord).readStackPair q = s.readStackPair q := fun q hq => by
    rw [State.readStackPair_writeStackPair_other _ p q _ hq, State.readStackPair_popped]
  exact ⟨⟨encodedAs_encode (.popRr p) rfl, encodedAs_encode .popAf rfl⟩,
    completes_of_complete rfl ⟨hpair, hother, ha, hf, hsp, hpc, hctl, State.readByte_congr hmem⟩,
    completes_of_complete rfl ⟨s.hiByte_popWord_and_mask, s.loByte_popWord_and_mask,
      s.popped.otherRegs_setWord_af (s.popWord &&& 0xFFF0), rfl, rfl, ⟨rfl, rfl, rfl, rfl, rfl⟩, fun _ => rfl⟩⟩

end Sys2Proof.Machine
end

section
/-! SUPPORT. The prefix byte, the control instructions and the bytes that raise the fatal error (46_system.md R240 to R246). -/

namespace Sys2Proof.Machine

/-- Settles O54: the byte after the prefix is read as its row of the second page, whose meaning the prefix has. -/
theorem prefixRunsTheSelectedInstruction : Obligations.PrefixRunsTheSelectedInstruction := by
  unfold Obligations.PrefixRunsTheSelectedInstruction
  intro op2 s
  obtain ⟨t, ht, -⟩ := exec_decodeCb_reports op2 s
  exact ⟨encodedAs_cb op2, Laws.Encoding.decodeCb_length op2, t, (exec_prefixCb op2 s).trans ht, ht⟩

/-- Settles O52: each of the four answers its one update and the count 1. -/
theorem nopDiEiAndHalt : Obligations.NopDiEiAndHalt := by
  unfold Obligations.NopDiEiAndHalt
  exact fun s => ⟨⟨encodedAs_encode .nop rfl, encodedAs_encode .di rfl, encodedAs_encode .ei rfl,
    encodedAs_encode .halt rfl⟩, rfl, rfl, rfl, rfl⟩

/-- An instruction that an illegal byte encodes is what that byte is read as, so it raises the fatal error with the byte (R246). -/
theorem encodedAs_and_exec_of_illegal {i : Instr} {op : Byte} (hop : op ∈ illegalBytes) (henc : encode i = [op])
    (hwf : i.wellFormed = true) (hcanon : i.canonical = i) (s : State) :
    EncodedAs [op] i ∧ exec i s = .next (s.raiseFatal .illegal op) := by
  have hread : EncodedAs [op] i := by
    have h := encodedAs_encode i hwf
    rwa [henc, hcanon] at h
  have hdec : decodeBytes op 0 0 = i := decode_three (hread [0, 0])
  obtain ⟨-, hexec⟩ := exec_of_mem_illegalBytes hop 0 0
  exact ⟨hread, hdec ▸ hexec s⟩

/-- Settles O53: STOP raises the error by its meaning, each illegal row as the byte that encodes it does. -/
theorem stopAndIllegalBytesRaiseTheFatalError : Obligations.StopAndIllegalBytesRaiseTheFatalError := by
  unfold Obligations.StopAndIllegalBytesRaiseTheFatalError
  intro s
  refine ⟨encodedAs_encode .stop rfl, rfl, fun p hp => ?_⟩
  have hrow : p.2 ∈ illegalBytes ∧ encode p.1 = [p.2] ∧ p.1.wellFormed = true ∧ p.1.canonical = p.1 := by
    revert p
    decide
  obtain ⟨hop, henc, hwf, hcanon⟩ := hrow
  exact encodedAs_and_exec_of_illegal hop henc hwf hcanon s

end Sys2Proof.Machine
end

section
/-! SUPPORT. The rotates, the shifts and the bit instructions (47_rotate_cb.md R250 to R276): each bit of a result byte, the flags
that come with it, one law for each place a result goes to, then the five statements of the family from these. -/

namespace Sys2Proof.Machine

/-! ### The bits of a rotated byte -/

theorem getLsbD_bitByte (b : Bool) (i : Nat) : (bitByte b).getLsbD i = (decide (i = 0) && b) := by
  cases b with
  | false => simp [bitByte]
  | true => simp [bitByte, BitVec.getLsbD_one]

/-- A byte moved up by one, with `b` let in at bit 0. -/
theorem getLsbD_shiftLeft_or (v : Byte) (b : Bool) {i : Nat} (hi : i < 8) :
    ((v <<< 1) ||| bitByte b).getLsbD i = if i = 0 then b else v.getLsbD (i - 1) := by
  rw [BitVec.getLsbD_or, BitVec.getLsbD_shiftLeft, getLsbD_bitByte]
  by_cases h0 : i = 0
  · simp [h0]
  · simp [h0, hi]

/-- A byte moved down by one, with `b` let in at bit 7. -/
theorem getLsbD_ushiftRight_or (v : Byte) (b : Bool) {i : Nat} (hi : i < 8) :
    ((v >>> 1) ||| (bitByte b <<< 7)).getLsbD i = if i = 7 then b else v.getLsbD (i + 1) := by
  rw [BitVec.getLsbD_or, BitVec.getLsbD_ushiftRight, BitVec.getLsbD_shiftLeft, getLsbD_bitByte, Nat.add_comm 1 i]
  by_cases h7 : i = 7
  · simp [h7]
  · have hlt : i < 7 := by omega
    simp [h7, hlt]

/-- The two halves of a byte exchanged. -/
theorem getLsbD_swap (v : Byte) {i : Nat} (hi : i < 8) :
    ((v <<< 4) ||| (v >>> 4)).getLsbD i = v.getLsbD ((i + 4) % 8) := by
  rw [BitVec.getLsbD_or, BitVec.getLsbD_shiftLeft, BitVec.getLsbD_ushiftRight]
  by_cases h4 : i < 4
  · rw [Nat.mod_eq_of_lt (by omega)]
    simp [h4, Nat.add_comm]
  · rw [Nat.mod_eq_sub_mod (by omega), Nat.mod_eq_of_lt (by omega), BitVec.getLsbD_of_ge v (4 + i) (by omega)]
    simp [h4, hi]

namespace Rotate

/-- Every rotate or shift but SWAP moves by one and lets a bit in: the one at the other end, the carry, the sign, or 0. -/
theorem getLsbD_result (o : Rotate) (v : Byte) (c : Bool) (i : Fin 8) :
    (o.result v c).getLsbD i = rotatedBit o v c i := by
  have hi := i.isLt
  cases o with
  | rlc =>
    refine (getLsbD_shiftLeft_or v _ hi).trans ?_
    split
    · next h => rw [h]; rfl
    · exact congrArg v.getLsbD (by omega)
  | rrc =>
    refine (getLsbD_ushiftRight_or v _ hi).trans ?_
    split
    · next h => rw [h]; rfl
    · exact congrArg v.getLsbD (by omega)
  | rl => exact getLsbD_shiftLeft_or v c hi
  | rr => exact getLsbD_ushiftRight_or v c hi
  | sla =>
    have hopen : sla.result v c = (v <<< 1) ||| bitByte false := BitVec.or_zero.symm
    exact hopen ▸ getLsbD_shiftLeft_or v false hi
  | sra => exact getLsbD_ushiftRight_or v _ hi
  | swap => exact getLsbD_swap v hi
  | srl =>
    have hopen : srl.result v c = (v >>> 1) ||| (bitByte false <<< 7) := BitVec.or_zero.symm
    exact hopen ▸ getLsbD_ushiftRight_or v false hi

theorem carry_eq_rotatedOut (o : Rotate) (v : Byte) : o.carry v = rotatedOut o v := by
  cases o <;> rfl

end Rotate

/-! ### Where the result goes -/

/-- The flags of a rotate or shift: Z as written, N and H clear, C the bit moved out (R250, R255). -/
theorem flagsAre_rotate (s : State) (o : Rotate) (v : Byte) {b : Bool} {z : Prop} (hz : b = true ↔ z) :
    FlagsAre (s.assignF ⟨b, false, false, o.carry v⟩) z False False (rotatedOut o v = true) :=
  flagsAre_assignF s hz (iff_of_false Bool.false_ne_true id) (iff_of_false Bool.false_ne_true id)
    (by rw [o.carry_eq_rotatedOut])

theorem State.readR8_rotateR8_same (s : State) (o : Rotate) (r : Reg8) :
    (s.rotateR8 o r).readR8 r = o.result (s.readR8 r) s.flagC := by
  simp [rotateR8]

section

variable {i : Instr} {s : State} {m : Nat} {o : Rotate}

/-- A one-byte rotate of A: Z is cleared whatever the result (R250 to R253). -/
theorem completes_of_rotateA (he : exec i s = complete (some m) (s.rotateA o)) :
    Completes i s m (fun t =>
      (∀ j : Fin 8, t.a.getLsbD j = rotatedBit o s.a s.flagC j) ∧
        FlagsAre t False False False (rotatedOut o s.a = true) ∧ t.LowNibbleZero ∧ OtherRegs [.a] s t ∧ Quiet s t ∧
        SameMem s t) := by
  obtain ⟨hlow, hregs, hq⟩ := (s.keepsRegs_writeR8 .a (o.result s.a s.flagC)).assignF (o.flagsA s.a)
  exact completes_of_complete he ⟨o.getLsbD_result s.a s.flagC,
    flagsAre_rotate (s.setA (o.result s.a s.flagC)) o s.a (iff_of_false Bool.false_ne_true id), hlow, hregs, hq, fun _ => rfl⟩

/-- A second-page rotate or shift of a register (R254). -/
theorem completes_of_rotateR8 {r : Reg8} (he : exec i s = complete (some m) (s.rotateR8 o r)) :
    Completes i s m (fun t =>
      (∀ j : Fin 8, (t.readR8 r).getLsbD j = rotatedBit o (s.readR8 r) s.flagC j) ∧
        FlagsAre t (t.readR8 r = 0) False False (rotatedOut o (s.readR8 r) = true) ∧ t.LowNibbleZero ∧
        OtherRegs [r] s t ∧ Quiet s t ∧ SameMem s t) := by
  obtain ⟨hlow, hregs, hq⟩ :=
    (s.keepsRegs_writeR8 r (o.result (s.readR8 r) s.flagC)).assignF (o.flags (s.readR8 r) s.flagC)
  refine completes_of_complete he ?_
  rw [State.readR8_report, State.readR8_rotateR8_same]
  exact ⟨o.getLsbD_result (s.readR8 r) s.flagC,
    flagsAre_rotate (s.writeR8 r (o.result (s.readR8 r) s.flagC)) o (s.readR8 r) beq_iff_eq, hlow, hregs, hq,
    s.readByte_rotateR8 o r⟩

/-- A second-page rotate or shift of the byte at HL: the flags do not ask what was stored (R254). -/
theorem completes_of_rotateAtHl (he : exec i s = complete (some m) (s.rotateAtHl o)) :
    Completes i s m (fun t =>
      ∃ r : Byte, (∀ j : Fin 8, r.getLsbD j = rotatedBit o (s.readByte s.hl) s.flagC j) ∧ Stored s.hl r s t ∧
        FlagsAre t (r = 0) False False (rotatedOut o (s.readByte s.hl) = true) ∧ t.LowNibbleZero ∧ OtherRegs [] s t ∧
        Quiet s t) :=
  completes_of_complete he ⟨o.result s.atHl s.flagC, o.getLsbD_result s.atHl s.flagC, s.readByte_rotateAtHl o,
    flagsAre_rotate (s.storeAtHl (o.result s.atHl s.flagC)) o s.atHl beq_iff_eq, (s.keepsRegs_writeByte s.hl _).assignF _⟩

end

/-! ### The rows of the rotates and shifts -/

theorem Rotate.code_lt (o : Rotate) : o.code < 8 := by
  cases o <;> decide

/-- The second-page row of a rotate or shift of a register (30_encoding.md R98). -/
theorem encodedAs_rotateR (o : Rotate) (r : Reg8) : EncodedAs [0xCB, opByte 0 o.code r.code] (rotateR o.code r) :=
  encodedAs_cbBytes (by simp [decodeCb, regOf_code, o.code_lt])

/-- The second-page row of a rotate or shift of the byte at HL (30_encoding.md R98). -/
theorem encodedAs_rotateHl (o : Rotate) : EncodedAs [0xCB, opByte 0 o.code 6] (rotateHl o.code) :=
  encodedAs_cbBytes (by simp [decodeCb, regOf, o.code_lt])

theorem exec_rotateR (o : Rotate) (r : Reg8) (s : State) :
    exec (rotateR o.code r) s = complete (some 2) (s.rotateR8 o r) := by
  cases o <;> rfl

theorem exec_rotateHl (o : Rotate) (s : State) : exec (rotateHl o.code) s = complete (some 4) (s.rotateAtHl o) := by
  cases o <;> rfl

/-- Settles O55: each of the four rotates A. -/
theorem oneByteRotatesOfA : Obligations.OneByteRotatesOfA := by
  unfold Obligations.OneByteRotatesOfA
  intro s
  simp only [List.forall_mem_cons]
  exact ⟨⟨encodedAs_encode .rlca rfl, encodedAs_encode .rrca rfl, encodedAs_encode .rla rfl, encodedAs_encode .rra rfl⟩,
    completes_of_rotateA rfl, completes_of_rotateA rfl, completes_of_rotateA rfl, completes_of_rotateA rfl,
    List.forall_mem_nil _⟩

/-- Settles O56: the row of the list at each rotate or shift is the one its field value selects. -/
theorem rotatesAndShiftsOfARegister : Obligations.RotatesAndShiftsOfARegister := by
  unfold Obligations.RotatesAndShiftsOfARegister
  intro r s
  exact (List.forall_mem_map (f := fun o : Rotate => (rotateR o.code r, o))
    (l := [.rlc, .rrc, .rl, .rr, .sla, .sra, .swap, .srl])).mpr fun o _ =>
      ⟨encodedAs_rotateR o r, completes_of_rotateR8 (exec_rotateR o r s)⟩

/-- Settles O57: the same for the byte at HL. -/
theorem rotatesAndShiftsOfTheByteAtHl : Obligations.RotatesAndShiftsOfTheByteAtHl := by
  unfold Obligations.RotatesAndShiftsOfTheByteAtHl
  intro s
  exact (List.forall_mem_map (f := fun o : Rotate => (rotateHl o.code, o))
    (l := [.rlc, .rrc, .rl, .rr, .sla, .sra, .swap, .srl])).mpr fun o _ =>
      ⟨encodedAs_rotateHl o, completes_of_rotateAtHl (exec_rotateHl o s)⟩

/-! ### One bit of a byte -/

theorem getLsbD_bitMask (k i : Fin 8) : (bitMask k).getLsbD i = decide (i = k) := by
  refine (BitVec.getLsbD_twoPow k.val i.val).trans ?_
  simp [Fin.ext_iff, eq_comm]

/-- RES clears bit `k` and no other (R273). -/
theorem getLsbD_clearBit (v : Byte) (k i : Fin 8) :
    (clearBit v k).getLsbD i = if i = k then false else v.getLsbD i := by
  rw [clearBit, BitVec.getLsbD_and, BitVec.getLsbD_not, getLsbD_bitMask]
  by_cases h : i = k <;> simp [h]

/-- SET sets bit `k` and no other (R275). -/
theorem getLsbD_setBit (v : Byte) (k i : Fin 8) : (setBit v k).getLsbD i = if i = k then true else v.getLsbD i := by
  rw [setBit, BitVec.getLsbD_or, getLsbD_bitMask]
  by_cases h : i = k <;> simp [h]

section

variable {i : Instr} {s : State} {m : Nat}

/-- A tested bit goes to F alone (R271). -/
theorem completes_of_bitFlags {v : Byte} {k : Nat} (he : exec i s = complete (some m) (s.writeFlags (bitFlags v k s.flagC))) :
    Completes i s m (fun t =>
      FlagsAre t (v.getLsbD k = false) False True (s.flagC = true) ∧ LowBitsKept s t ∧ OtherRegs [] s t ∧ Quiet s t ∧
        SameMem s t) :=
  completes_of_complete he
    ⟨flagsAre_writeFlags s (.of_eq (Bool.not_eq_true' _)) (iff_of_false Bool.false_ne_true id) (iff_of_true rfl trivial)
      Iff.rfl, s.writeFlags_frame _⟩

variable {k : Fin 8} {b : Bool} {v : Byte}

/-- A register with one bit changed is written back (R273, R275). -/
theorem completes_of_writeR8_bit {r : Reg8} (he : exec i s = complete (some m) (s.writeR8 r v))
    (hv : ∀ j : Fin 8, v.getLsbD j = if j = k then b else (s.readR8 r).getLsbD j) :
    Completes i s m (fun t =>
      (∀ j : Fin 8, (t.readR8 r).getLsbD j = if j = k then b else (s.readR8 r).getLsbD j) ∧ OtherRegs [r] s t ∧
        t.f = s.f ∧ Quiet s t ∧ SameMem s t) := by
  obtain ⟨t, ht, hm, hr, hkept⟩ := completes_of_writeR8 he
  exact ⟨t, ht, hm, hr.symm ▸ hv, hkept⟩

/-- The byte at HL with one bit changed is stored through the decoder (R274, R276). -/
theorem completes_of_storeAtHl_bit (he : exec i s = complete (some m) (s.storeAtHl v))
    (hv : ∀ j : Fin 8, v.getLsbD j = if j = k then b else (s.readByte s.hl).getLsbD j) :
    Completes i s m (fun t =>
      ∃ v : Byte, (∀ j : Fin 8, v.getLsbD j = if j = k then b else (s.readByte s.hl).getLsbD j) ∧
        Stored s.hl v s t ∧ OtherRegs [] s t ∧ t.f = s.f ∧ Quiet s t) := by
  obtain ⟨t, ht, hm, hkept⟩ := completes_of_writeByte he
  exact ⟨t, ht, hm, v, hv, hkept⟩

end

/-- Settles O59: each form writes back its byte with the one bit changed. -/
theorem bitResetAndSet : Obligations.BitResetAndSet := by
  unfold Obligations.BitResetAndSet
  intro k r s
  have hk : bitIndexOk k = true := decide_eq_true k.isLt
  simp only [List.forall_mem_cons]
  exact ⟨⟨encodedAs_encode (.resBR k r) hk, encodedAs_encode (.resBHl k) hk, encodedAs_encode (.setBR k r) hk,
      encodedAs_encode (.setBHl k) hk⟩,
    ⟨completes_of_writeR8_bit rfl (getLsbD_clearBit _ k), completes_of_writeR8_bit rfl (getLsbD_setBit _ k),
      List.forall_mem_nil _⟩,
    completes_of_storeAtHl_bit rfl (getLsbD_clearBit _ k), completes_of_storeAtHl_bit rfl (getLsbD_setBit _ k),
    List.forall_mem_nil _⟩

/-- Settles O58: each form tests its byte. -/
theorem bitTests : Obligations.BitTests := by
  unfold Obligations.BitTests
  intro k r s
  have hk : bitIndexOk k = true := decide_eq_true k.isLt
  simp only [List.forall_mem_cons]
  exact ⟨⟨encodedAs_encode (.bitBR k r) hk, encodedAs_encode (.bitBHl k) hk⟩,
    completes_of_bitFlags rfl, completes_of_bitFlags rfl, List.forall_mem_nil _⟩

end Sys2Proof.Machine
end

section
/-! SUPPORT. The divider and the timer as one: their increments add up, the divider takes no part in what the timer counts, so
`UpdateTimer` does not see how its cycles are split (60_exceptions.md R322, R324, R330). -/

namespace Sys2Proof.Machine

/-! ### The divider -/

/-- Settles O19: the increments of DIV, as a number, and the divider's frame. -/
theorem dividerCountsOncePer256TCycles : Obligations.DividerCountsOncePer256TCycles := by
  unfold Obligations.DividerCountsOncePer256TCycles
  intro s t
  refine ⟨?_, State.updateDivider_divAcc s t, fun x hx => ?_, State.updateDivider_only s t⟩
  · rw [State.readByte_updateDivider, if_pos rfl, BitVec.toNat_add, BitVec.toNat_ofNat, Nat.add_mod_mod]
  · rw [State.readByte_updateDivider, if_neg hx]

/-! ### Periods counted in two parts -/

/-- The periods in `a + b` are those in `a` and those in what `a` leaves over, with `b`. -/
theorem add_div_of_split (a b p : Nat) (hp : 0 < p) : (a + b) / p = a / p + (a % p + b) / p := by
  conv_lhs => rw [← Nat.div_add_mod a p, Nat.add_assoc, Nat.mul_add_div hp]

/-! ### Memory but for DIV -/

/-- Every byte but DIV reads alike. -/
def AgreeOffDiv (s t : State) : Prop := ∀ x, x ≠ 0xFF04 → t.readByte x = s.readByte x

namespace AgreeOffDiv

variable {s t u : State}

theorem trans (h : AgreeOffDiv s t) (h' : AgreeOffDiv t u) : AgreeOffDiv s u :=
  fun x hx => (h' x hx).trans (h x hx)

/-- An increment of TIMA reads no DIV (R325). -/
theorem timaTick (h : AgreeOffDiv s t) : AgreeOffDiv s.timaTick t.timaTick := by
  intro x hx
  rw [State.readByte_timaTick, State.readByte_timaTick, h 0xFF05 (by decide), h 0xFF06 (by decide), h 0xFF0F (by decide),
    h x hx]

theorem timaTicks (n : Nat) (h : AgreeOffDiv s t) : AgreeOffDiv (s.timaTicks n) (t.timaTicks n) := by
  induction n generalizing s t with
  | zero => exact h
  | succ k ih => exact ih h.timaTick

theorem timerOn_eq (h : AgreeOffDiv s t) : t.timerOn = s.timerOn := by
  rw [State.timerOn_eq, State.timerOn_eq, h 0xFF07 (by decide)]

theorem timerPeriod_eq (h : AgreeOffDiv s t) : t.timerPeriod = s.timerPeriod := by
  rw [State.timerPeriod_eq, State.timerPeriod_eq, h 0xFF07 (by decide)]

end AgreeOffDiv

namespace State

theorem agreeOffDiv_updateDivider (s : State) (t : Nat) : AgreeOffDiv s (s.updateDivider t) := by
  intro x hx
  rw [readByte_updateDivider, if_neg hx]

/-! ### The increments of TIMA in an update -/

/-- How many increments of TIMA `UpdateTima(t)` makes: none while the timer is off (R325, R326). -/
def timaCount (s : State) (t : Nat) : Nat := if s.timerOn then (s.timaAcc + t) / s.timerPeriod else 0

/-- `UpdateTima` makes `timaCount` increments. -/
theorem readByte_updateTima (s : State) (t : Nat) (x : Word) :
    (s.updateTima t).readByte x = (s.timaTicks (s.timaCount t)).readByte x := by
  unfold timaCount
  split
  · next hon => exact readByte_updateTima_on s t hon x
  · next hoff =>
    rw [updateTima_off s t (Bool.eq_false_of_not_eq_true hoff)]
    rfl

theorem timaCount_updateDivider (s : State) (t t' : Nat) : (s.updateDivider t).timaCount t' = s.timaCount t' := by
  have hdiv := s.agreeOffDiv_updateDivider t
  rw [timaCount, hdiv.timerOn_eq, hdiv.timerPeriod_eq, updateDivider_timaAcc, timaCount]

/-- Off DIV, `UpdateTimer` makes the increments of TIMA and nothing else (R322). -/
theorem agreeOffDiv_updateTimer (s : State) (t : Nat) : AgreeOffDiv (s.timaTicks (s.timaCount t)) (s.updateTimer t) := by
  intro x hx
  unfold updateTimer
  rw [readByte_updateTima, timaCount_updateDivider, (s.agreeOffDiv_updateDivider t).timaTicks _ x hx]

/-- The timer's control byte is as before (R322). -/
theorem readByte_updateTimer_tac (s : State) (t : Nat) : (s.updateTimer t).readByte 0xFF07 = s.readByte 0xFF07 :=
  readByte_updateTimer_other s t (by decide) (by decide) (by decide)

@[simp] theorem timerOn_updateTimer (s : State) (t : Nat) : (s.updateTimer t).timerOn = s.timerOn := by
  rw [timerOn_eq, timerOn_eq, readByte_updateTimer_tac]

@[simp] theorem timerPeriod_updateTimer (s : State) (t : Nat) : (s.updateTimer t).timerPeriod = s.timerPeriod := by
  rw [timerPeriod_eq, timerPeriod_eq, readByte_updateTimer_tac]

/-- DIV after `UpdateTimer` (R322, R324). -/
theorem readByte_updateTimer_div (s : State) (t : Nat) :
    (s.updateTimer t).readByte 0xFF04 = s.readByte 0xFF04 + BitVec.ofNat 8 ((s.divAcc + t) / 256) := by
  unfold updateTimer
  rw [readByte_updateTima_other _ _ (by decide) (by decide), readByte_updateDivider, if_pos rfl]

@[simp] theorem updateTimer_divAcc (s : State) (t : Nat) : (s.updateTimer t).divAcc = (s.divAcc + t) % 256 := by
  rw [updateTimer_only]

theorem updateTimer_timaAcc (s : State) (t : Nat) :
    (s.updateTimer t).timaAcc = if s.timerOn then (s.timaAcc + t) % s.timerPeriod else s.timaAcc := by
  have hdiv := s.agreeOffDiv_updateDivider t
  unfold updateTimer
  rw [updateTima_timaAcc, hdiv.timerOn_eq, hdiv.timerPeriod_eq, updateDivider_timaAcc]

/-- Memory apart, `UpdateTimer` changes the two accumulators (R322). -/
theorem updateTimer_forget_mem (s : State) (t : Nat) :
    ({ s.updateTimer t with mem := [] } : State) =
      { s with divAcc := (s.updateTimer t).divAcc, timaAcc := (s.updateTimer t).timaAcc, mem := [] } := by
  rw [updateTimer_only]

/-! ### Two updates for one -/

section

variable (s : State) (t1 t2 : Nat)

theorem timaCount_add : s.timaCount (t1 + t2) = s.timaCount t1 + (s.updateTimer t1).timaCount t2 := by
  unfold timaCount
  rw [timerOn_updateTimer, timerPeriod_updateTimer, updateTimer_timaAcc]
  split
  · rw [← Nat.add_assoc, add_div_of_split _ t2 _ s.timerPeriod_bounds.1]
  · rfl

theorem updateTimer_timaAcc_add :
    (s.updateTimer (t1 + t2)).timaAcc = ((s.updateTimer t1).updateTimer t2).timaAcc := by
  rw [updateTimer_timaAcc, updateTimer_timaAcc, timerOn_updateTimer, timerPeriod_updateTimer, updateTimer_timaAcc]
  split
  · rw [Nat.mod_add_mod, Nat.add_assoc]
  · rfl

theorem updateTimer_divAcc_add : (s.updateTimer (t1 + t2)).divAcc = ((s.updateTimer t1).updateTimer t2).divAcc := by
  rw [updateTimer_divAcc, updateTimer_divAcc, updateTimer_divAcc, Nat.mod_add_mod, Nat.add_assoc]

theorem readByte_updateTimer_div_add :
    (s.updateTimer (t1 + t2)).readByte 0xFF04 = ((s.updateTimer t1).updateTimer t2).readByte 0xFF04 := by
  rw [readByte_updateTimer_div, readByte_updateTimer_div, readByte_updateTimer_div, updateTimer_divAcc, BitVec.add_assoc,
    ← BitVec.ofNat_add, ← add_div_of_split _ _ _ (by decide), Nat.add_assoc]

/-- Off DIV the two runs of increments are one (R330). -/
theorem agreeOffDiv_updateTimer_add : AgreeOffDiv (s.updateTimer (t1 + t2)) ((s.updateTimer t1).updateTimer t2) := by
  have hone := s.agreeOffDiv_updateTimer (t1 + t2)
  rw [timaCount_add, timaTicks_add] at hone
  have htwo := ((s.agreeOffDiv_updateTimer t1).timaTicks _).trans ((s.updateTimer t1).agreeOffDiv_updateTimer t2)
  exact fun x hx => (htwo x hx).trans (hone x hx).symm

end

end State

/-- Settles O21: DIV adds up, and so do the increments of TIMA, which see every byte but DIV. -/
theorem timerDoesNotSeeHowCyclesAreSplit : Obligations.TimerDoesNotSeeHowCyclesAreSplit := by
  unfold Obligations.TimerDoesNotSeeHowCyclesAreSplit
  intro s t1 t2
  refine ⟨fun x => ?_, ?_⟩
  · by_cases hx : x = 0xFF04
    · rw [hx, State.readByte_updateTimer_div_add]
    · exact (s.agreeOffDiv_updateTimer_add t1 t2 x hx).symm
  · rw [State.updateTimer_forget_mem, State.updateTimer_forget_mem (s.updateTimer t1), ← s.updateTimer_divAcc_add,
      ← s.updateTimer_timaAcc_add]
    simp

end Sys2Proof.Machine
end

section
/-! SUPPORT. Requests, the interrupt check and interrupt entry (60_exceptions.md R308, R309, R313, R315). -/

namespace Sys2Proof.Machine

/-- The least source is the one whose bit is set with none set below it (R313). -/
theorem lowestSource_eq_some {pend : Byte} {n : Nat} (hn : n < 5) (hset : bitAt pend n = true)
    (hleast : ∀ i, i < n → bitAt pend i = false) : lowestSource pend = some n :=
  List.find?_range_eq_some.mpr ⟨hset, List.mem_range.mpr hn, fun i hi => by rw [hleast i hi]; rfl⟩

namespace State

/-- The interrupt check enters the least pending source (R315). -/
theorem handleInterrupts_of_lowestSource {s : State} {n : Nat} (hime : s.ime = true)
    (hlow : lowestSource s.pending = some n) : s.handleInterrupts = s.enterInterrupt n := by
  simp [handleInterrupts, hime, hlow]

/-- With nothing pending the interrupt check does nothing, whatever IME is (R315). -/
theorem handleInterrupts_of_pending_eq_zero {s : State} (h : s.pending = 0) : s.handleInterrupts = s := by
  have hnone : lowestSource s.pending = none := by rw [h]; decide
  simp [handleInterrupts, hnone]

end State

/-- Settles O23: either gate alone closes the check. -/
theorem closedGatesServiceNothing : Obligations.ClosedGatesServiceNothing := by
  unfold Obligations.ClosedGatesServiceNothing
  rintro s (hime | hpend)
  · exact s.handleInterrupts_closed hime
  · exact State.handleInterrupts_of_pending_eq_zero hpend

/-- Settles O24: a request sets its bit of IF, which is set once and for all. -/
theorem requestSetsOneBitOfIfAndIsIdempotent : Obligations.RequestSetsOneBitOfIfAndIsIdempotent := by
  unfold Obligations.RequestSetsOneBitOfIfAndIsIdempotent
  intro s n
  refine ⟨s.readByte_requestInterrupt n, rfl, fun x => ?_⟩
  rw [State.readByte_requestInterrupt, State.readByte_requestInterrupt, State.readByte_requestInterrupt]
  by_cases hx : x = 0xFF0F
  · rw [if_pos hx, if_pos rfl, if_pos hx, setBit_setBit]
  · rw [if_neg hx]

/-- Settles O22: the check enters that source, and the entry's frame and bytes are the model's laws. -/
theorem interruptEntryServicesTheLowestSource : Obligations.InterruptEntryServicesTheLowestSource := by
  unfold Obligations.InterruptEntryServicesTheLowestSource
  intro s n hime hn hie hif hleast
  have hset : bitAt s.pending n = true := by rw [s.pending_bit hn, hie, hif]; rfl
  have hbelow : ∀ i, i < n → bitAt s.pending i = false := by
    intro i hi
    rw [s.pending_bit (by omega), ← Bool.not_eq_true, Bool.and_eq_true]
    exact hleast i hi
  rw [State.handleInterrupts_of_lowestSource hime (lowestSource_eq_some hn hset hbelow)]
  exact ⟨s.enterInterrupt_only n, s.readByte_enterInterrupt n⟩

end Sys2Proof.Machine
end

section
/-! SUPPORT. When the machine has a step, the idle step, and the counts of table CY (60_exceptions.md R300, R303, R305;
70_reset_and_hazards.md R370). -/

namespace Sys2Proof.Machine

/-- The step of a live state that idles (R300, R335). -/
theorem step_idling {s : State} (hlive : s.Live) (hidle : s.Idling) : step s = .next s.idleStep := by
  rw [step_live s hlive, if_pos (s.idles_iff.mpr hidle)]

/-- An idle step reports one M-cycle, updates the timer by 4 T-cycles and checks for interrupts (R300, R335). -/
theorem State.idleStep_live {s : State} (hlive : s.Live) :
    s.idleStep = ((s.report (some 1)).updateTimer 4).handleInterrupts := finishStep_live (s.report (some 1)) hlive

/-- Settles O6: the idle step reports one M-cycle and ends as every step does. -/
theorem haltedStepIdlesForOneCycle : Obligations.HaltedStepIdlesForOneCycle := by
  unfold Obligations.HaltedStepIdlesForOneCycle
  intro s hlive hidle
  rw [step_idling hlive hidle, State.idleStep_live hlive]
  rfl

/-- Settles O7, by the model's law. -/
theorem fatalStateHasNoStep : Obligations.FatalStateHasNoStep := by
  unfold Obligations.FatalStateHasNoStep
  exact fun s _ => step_fatal s

/-- Settles O8: an idle step is a next state, and every meaning answers one. -/
theorem everyLiveStateHasAStep : Obligations.EveryLiveStateHasAStep := by
  unfold Obligations.EveryLiveStateHasAStep
  intro s hlive
  by_cases hidle : s.Idling
  · exact ⟨s.idleStep, step_idling hlive hidle⟩
  · obtain ⟨u, hu, -⟩ := exec_reports s.fetched (s.ready s.fetched)
    exact ⟨u.finishStep, (step_running hlive hidle).trans (closeStep_next.mpr ⟨u, hu, rfl⟩)⟩

/-- Settles O60: every meaning reports its count of the table, whose counts are bounded. -/
theorem cycleCountsAreTableCY : Obligations.CycleCountsAreTableCY := by
  unfold Obligations.CycleCountsAreTableCY
  exact ⟨exec_reports, fun _ _ _ h => tableCY_bounds h⟩

end Sys2Proof.Machine
end

section
/-! SUPPORT. The state of a launch, element by element: the registers of table RV, and each byte of memory by the last of the
three layers that reaches it (70_reset_and_hazards.md R350, R353, R358). -/

namespace Sys2Proof.Machine

/-- A byte image laid out from `a` on covers its own cells and leaves the others (R358). -/
theorem Memory.read_fill (image : List Byte) (m : Memory) (a x : Nat) :
    (m.fill a image).read x = if a ≤ x ∧ x < a + image.length then image.getD (x - a) 0 else m.read x := by
  induction image generalizing m a with
  | nil => exact (if_neg (by simp)).symm
  | cons v rest ih =>
    show (Memory.fill (m.write a v) (a + 1) rest).read x = _
    rw [ih, Memory.read_write, List.length_cons]
    obtain hlt | rfl | hgt := Nat.lt_trichotomy x a
    · rw [if_neg (by omega), if_neg (by omega), if_neg (by omega)]
    · rw [if_neg (by omega), if_pos rfl, if_pos (by omega), Nat.sub_self]
      rfl
    · have hsub : x - a = x - (a + 1) + 1 := by omega
      rw [if_neg (show ¬ x = a by omega), hsub, List.getD_cons_succ]
      exact if_congr (by omega) rfl rfl

/-- Zeroed registers read 0x00, whatever was placed before them, and every other cell as before (R52). -/
theorem Memory.read_place_zeros (addrs : List Word) (m : Memory) (x : Word) :
    (m.place (addrs.map (fun a => (a.toNat, 0)))).read x.toNat = if x ∈ addrs then 0 else m.read x.toNat := by
  induction addrs generalizing m with
  | nil => rfl
  | cons a rest ih =>
    show (Memory.place (if a.toNat < 65536 then m.write a.toNat 0 else m) (rest.map _)).read x.toNat = _
    rw [if_pos a.isLt, ih, Memory.read_write]
    by_cases hrest : x ∈ rest
    · rw [if_pos hrest, if_pos (List.mem_cons_of_mem a hrest)]
    · rw [if_neg hrest]
      exact if_congr (by simp [hrest, BitVec.toNat_inj]) rfl rfl

/-- The byte at every address after a launch: the image, else a zeroed register, else `INIT_MEM` (R350). -/
theorem State.readByte_launch (image : List Byte) (initMem : List Host.Cell) (x : Word) :
    (State.launch image initMem).readByte x =
      if x.toNat < min image.length 0x8000 then image.getD x.toNat 0
      else if x ∈ zeroedAddrs then 0x00
      else (Memory.place [] initMem).read x.toNat := by
  show (launchMemory image initMem).read x.toNat = _
  unfold launchMemory
  rw [Memory.read_fill, Memory.read_place_zeros, List.length_take]
  have hrom : params.romHi.toNat = 0x8000 := rfl
  rw [hrom]
  by_cases hx : x.toNat < min image.length 0x8000
  · rw [if_pos (by omega), if_pos hx, Nat.sub_zero, List.getD_eq_getElem?_getD, List.getD_eq_getElem?_getD,
      List.getElem?_take_of_lt (by omega)]
  · rw [if_neg (by omega), if_neg hx]

/-- Settles O27: the registers are constants, each byte is the launch's. -/
theorem launchEstablishesTheResetTable : Obligations.LaunchEstablishesTheResetTable := by
  unfold Obligations.LaunchEstablishesTheResetTable
  rintro image initMem s rfl
  exact ⟨mkWord_hiByte_loByte _, mkWord_hiByte_loByte _, mkWord_hiByte_loByte _, mkWord_hiByte_loByte _, rfl, rfl, rfl, rfl,
    rfl, rfl, rfl, State.readByte_launch image initMem⟩

end Sys2Proof.Machine
end
